-- ==== Sys2Proof/Word.lean ====
section
/-! DEFINITION. The unit of data of the block: the byte (spec 00_scope R6, R8). -/

namespace Sys2Proof

/-- One byte, bit 0 the least significant (R6). Byte sequences (R8) are `List Byte`. -/
abbrev Byte := BitVec 8

end Sys2Proof
end

