-- ==== Sys2Proof/Config.lean ====
section
/-! DEFINITION. What is fixed for one block and not by its program: the parameters of 00_scope R5, the descriptor table
type and its default contents (10_state R20, R21), and the free values, which are opaque: nothing in Lean can know them. -/

namespace Sys2Proof

/-- The only byte sizes a descriptor may have, `SIZES` = 1 or 5 (R5, R20). -/
inductive RegSize where
  | one
  | five
deriving DecidableEq, Repr

/-- The names of 10_state R21, `na` for a reserved entry; a label for people (R20). -/
inductive RegName where
  | config | enAA | enRxAddr | setupAW | setupRetr | rfCh | rfSetup | status | observeTx | rpd
  | rxAddrP0 | rxAddrP1 | rxAddrP2 | rxAddrP3 | rxAddrP4 | rxAddrP5 | txAddr
  | rxPwP0 | rxPwP1 | rxPwP2 | rxPwP3 | rxPwP4 | rxPwP5 | fifoStatus | na | dynpd | feature
deriving DecidableEq, Repr

/-- One descriptor (R20). Its address is its index in the table and is not stored. No rule reads `mask`. -/
structure Descriptor where
  name : RegName
  size : RegSize
  mask : Byte
deriving DecidableEq, Repr

/-- The descriptor table, `NREG` = 32 entries (R20). -/
abbrev DescTable := Vector Descriptor 32

/-- What the device and the link answer to one exchange (40_transport R111): bytes, a reported failure, or nothing ever. -/
inductive LinkAnswer where
  | ok (bytes : List Byte)
  | fail
  | never
deriving DecidableEq, Repr, Inhabited

namespace Config

/-- `DUMMY_BYTE` (R5; spec decision D5; log 10). DESIGN CHOICE. -/
def dummyByte : Byte := 0x00

/-- `PWR_UP_BIT` (R5, 10_state R37; spec decision D6; log 11). DESIGN CHOICE. -/
def pwrUpBit : Nat := 1

/-- `PRIM_RX_BIT` (R5, 10_state R37; spec decision D6; log 11). DESIGN CHOICE. -/
def primRxBit : Nat := 0

/-- `CE_HOLD_MIN` in microseconds (R5): a lower bound that no rule of the model reads (70_reset R283). -/
def ceHoldMinMicroseconds : Nat := 10

/-- `DESC`: the default table of 10_state R21 (spec decision D14; log 12). PRESUMED by the spec beyond CONFIG. -/
def defaultDesc : DescTable := #v[
  ⟨.config, .one, 0x7F⟩, ⟨.enAA, .one, 0x3F⟩, ⟨.enRxAddr, .one, 0x3F⟩, ⟨.setupAW, .one, 0x03⟩,
  ⟨.setupRetr, .one, 0xFF⟩, ⟨.rfCh, .one, 0x7F⟩, ⟨.rfSetup, .one, 0xBE⟩, ⟨.status, .one, 0x7F⟩,
  ⟨.observeTx, .one, 0xFF⟩, ⟨.rpd, .one, 0x01⟩, ⟨.rxAddrP0, .five, 0xFF⟩, ⟨.rxAddrP1, .five, 0xFF⟩,
  ⟨.rxAddrP2, .one, 0xFF⟩, ⟨.rxAddrP3, .one, 0xFF⟩, ⟨.rxAddrP4, .one, 0xFF⟩, ⟨.rxAddrP5, .one, 0xFF⟩,
  ⟨.txAddr, .five, 0xFF⟩, ⟨.rxPwP0, .one, 0x3F⟩, ⟨.rxPwP1, .one, 0x3F⟩, ⟨.rxPwP2, .one, 0x3F⟩,
  ⟨.rxPwP3, .one, 0x3F⟩, ⟨.rxPwP4, .one, 0x3F⟩, ⟨.rxPwP5, .one, 0x3F⟩, ⟨.fifoStatus, .one, 0x73⟩,
  ⟨.na, .one, 0x00⟩, ⟨.na, .one, 0x00⟩, ⟨.na, .one, 0x00⟩, ⟨.na, .one, 0x00⟩,
  ⟨.dynpd, .one, 0x3F⟩, ⟨.feature, .one, 0x07⟩, ⟨.na, .one, 0x00⟩, ⟨.na, .one, 0x00⟩]

/-- A FREE byte: the `k`-th byte the spec leaves open (10_state R26, R42; log 3, 6, 15). -/
opaque freeByte (k : Nat) : Byte

/-- A FREE answer of the device and link, where the state lists no further answer (10_state R44; log 2). -/
opaque freeLink (k : Nat) : LinkAnswer

/-- `CE_RESET`, OPEN in the spec (10_state R27; spec decision D10; log 8): the level of CE_OUT after reset. -/
opaque ceReset : Bool

/-- `T_CLK`, OPEN in the spec (R5): the clock period of the block, in picoseconds. No rule of the model reads it (log 24). -/
opaque tClk : Nat

/-- `SPI_MODE`, OPEN in the spec (R5, 40_transport R120): clock polarity and phase. No rule of the model reads it (log 24). -/
opaque spiMode : Bool × Bool

/-- `SPI_RATE`, OPEN in the spec (R5, 40_transport R120): bits per second. No rule of the model reads it (log 24). -/
opaque spiRate : Nat

/-- The count AssertCE loads into HOLD, worth at least `CE_HOLD_MIN` (10_state R29); it depends on T_CLK, OPEN (log 9). -/
opaque holdCount : Nat

end Config

end Sys2Proof
end

