-- ==== Sys2Proof/Syntax.lean ====
section
/-! DEFINITION. The instructions: one constructor per row of spec/opcode_table.json. The first eight are the wire
commands (30_encoding R81), the other fourteen the host operations (R88). Operands are those R87 and R84 give. -/

namespace Sys2Proof

/-- The two instruction sets of the block (00_scope R1), each an encoding space of its own. -/
inductive Space where
  /-- Byte 0 of an SPI frame (30_encoding R80). -/
  | wire
  /-- Byte 0, `OP`, of a host request (30_encoding R87). -/
  | host
deriving DecidableEq, Repr

/-- Every instruction of the opcode table. -/
inductive Instr where
  /-- `RD_REG a` (R81, R82): read device register `a`; the descriptor's size says how many dummy bytes follow. -/
  | wireRdReg (a : BitVec 5)
  /-- `WR_REG a` (R81, R82): write device register `a` with the bytes given, 0 up to the descriptor's size. -/
  | wireWrReg (a : BitVec 5) (bytes : List Byte)
  /-- `RD_RXPLW` (R81, R83): read the width of the head RX payload. -/
  | wireRdRxplw
  /-- `RD_RXPL` (R81, R83): read `width` payload bytes, 1 to 32. -/
  | wireRdRxpl (width : Nat)
  /-- `WR_TXPL` (R81, R83): write a payload of 1 to 32 bytes. -/
  | wireWrTxpl (payload : List Byte)
  /-- `FLUSH_TX` (R81, R83). -/
  | wireFlushTx
  /-- `FLUSH_RX` (R81, R83). -/
  | wireFlushRx
  /-- `NOP` (R81, R83): the status probe. -/
  | wireNop
  /-- `readRegister(address)` (R88): the operand is the whole 8-bit `ADDR`, so that values above 31 can be presented. -/
  | readRegister (address : Byte)
  /-- `writeRegister(address, bytes)` (R88). -/
  | writeRegister (address : Byte) (bytes : List Byte)
  /-- `writeRegister(address, byte)`, the byte overload (R88, R101). -/
  | writeRegisterByte (address : Byte) (byte : Byte)
  /-- `readRXPayloadWidth()` (R88). -/
  | readRXPayloadWidth
  /-- `readRXPayload()` (R88). -/
  | readRXPayload
  /-- `writeTXPayload(payload)` (R88). -/
  | writeTXPayload (payload : List Byte)
  /-- `flushTX()` (R88). -/
  | flushTX
  /-- `flushRX()` (R88). -/
  | flushRX
  /-- `readState()` (R88). -/
  | readState
  /-- `getLastState()` (R88), also spelt `readLastState()` (R102). -/
  | getLastState
  /-- `receive()` (R88). -/
  | receive
  /-- `transmit()` (R88). -/
  | transmit
  /-- `deactivateCE()` (R88). -/
  | deactivateCE
  /-- `processState()` (R88). -/
  | processState
deriving DecidableEq, Repr

/-- Which of the two sets an instruction belongs to. -/
def Instr.space : Instr → Space
  | .wireRdReg _ => .wire
  | .wireWrReg _ _ => .wire
  | .wireRdRxplw => .wire
  | .wireRdRxpl _ => .wire
  | .wireWrTxpl _ => .wire
  | .wireFlushTx => .wire
  | .wireFlushRx => .wire
  | .wireNop => .wire
  | .readRegister _ => .host
  | .writeRegister _ _ => .host
  | .writeRegisterByte _ _ => .host
  | .readRXPayloadWidth => .host
  | .readRXPayload => .host
  | .writeTXPayload _ => .host
  | .flushTX => .host
  | .flushRX => .host
  | .readState => .host
  | .getLastState => .host
  | .receive => .host
  | .transmit => .host
  | .deactivateCE => .host
  | .processState => .host

end Sys2Proof
end

