-- ==== Sys2Proof/WellFormed.lean ====
section
/-! DEFINITION. Which terms of Instr stand for an encodable instruction: the operand counts of the wire commands
(30_encoding R81, R84, R98) and the 8-bit LEN of a host request (R87). Values the block itself checks (an address above
31, a payload of a wrong length) are well formed: the spec gives them an outcome. -/

namespace Sys2Proof

/-- The byte count a size stands for (10_state R20). -/
def RegSize.bytes : RegSize → Nat
  | .one => 1
  | .five => 5

/-- `DESC[a].size` in bytes (10_state R20). -/
def DescTable.sizeOf (d : DescTable) (a : BitVec 5) : Nat :=
  d[a.toNat].size.bytes

/-- An instruction that has an encoding, given the descriptor table (R81, R84, R87, R98). -/
def wellFormed (d : DescTable) : Instr → Bool
  | .wireRdReg _ => true
  | .wireWrReg a bytes => decide (bytes.length ≤ d.sizeOf a)
  | .wireRdRxplw => true
  | .wireRdRxpl width => decide (1 ≤ width ∧ width ≤ 32)
  | .wireWrTxpl payload => decide (1 ≤ payload.length ∧ payload.length ≤ 32)
  | .wireFlushTx => true
  | .wireFlushRx => true
  | .wireNop => true
  | .readRegister _ => true
  | .writeRegister _ bytes => decide (bytes.length ≤ 255)
  | .writeRegisterByte _ _ => true
  | .readRXPayloadWidth => true
  | .readRXPayload => true
  | .writeTXPayload payload => decide (payload.length ≤ 255)
  | .flushTX => true
  | .flushRX => true
  | .readState => true
  | .getLastState => true
  | .receive => true
  | .transmit => true
  | .deactivateCE => true
  | .processState => true

end Sys2Proof
end

