-- ==== Sys2Proof/Decode.lean ====
section
/-! DEFINITION. Decoding, total on any bytes and rejecting by name: the wire frame decoder (30_encoding R81 to R84) and
the host request decoder (R87, R88, R97). After them the encoder, over the same frame builders the meanings send, and
the words of spec/opcode_table.json. -/

namespace Sys2Proof

/-! ### Fields -/

/-- `n` dummy bytes, `rep(DUMMY_BYTE, n)` (00_scope R8, 30_encoding R84). -/
def dummies (n : Nat) : List Byte :=
  List.replicate n Config.dummyByte

/-- Bits 4:0 of a byte: the field `A` of format WA (R82), and the host's address operand once it is in range (R91). -/
def addressField (b : Byte) : BitVec 5 :=
  b.setWidth 5

/-- The opcode byte of format WA, `(OPC << 5) | a` (R82, R91): `OPC` is 0 for a read, 1 for a write. -/
def opcodeByteWA (opc : BitVec 3) (a : BitVec 5) : Byte :=
  (opc.setWidth 8 <<< 5) ||| a.setWidth 8

/-- The packed image of a descriptor (R104): NA, SZ5, MASK. -/
def descriptorImage (x : Descriptor) : BitVec 10 :=
  (BitVec.ofBool (decide (x.name = .na)) ++ BitVec.ofBool (decide (x.size = .five))) ++ x.mask

/-! ### The frames (R81, R84) -/

/-- `RD_REG a`: the opcode byte and `DESC[a].size` dummy bytes. -/
def frameRdReg (d : DescTable) (a : BitVec 5) : List Byte :=
  opcodeByteWA 0 a :: dummies (d.sizeOf a)

/-- `WR_REG a`: the opcode byte and the data bytes in the host's order (R92). -/
def frameWrReg (a : BitVec 5) (bytes : List Byte) : List Byte :=
  opcodeByteWA 1 a :: bytes

/-- `RD_RXPLW`: 0x60 and one dummy byte. -/
def frameRdRxplw : List Byte :=
  0x60 :: dummies 1

/-- `RD_RXPL`: 0x61 and `width` dummy bytes. -/
def frameRdRxpl (width : Nat) : List Byte :=
  0x61 :: dummies width

/-- `WR_TXPL`: 0xA0 and the payload. -/
def frameWrTxpl (payload : List Byte) : List Byte :=
  0xA0 :: payload

/-- `FLUSH_TX`. -/
def frameFlushTx : List Byte := [0xE1]

/-- `FLUSH_RX`. -/
def frameFlushRx : List Byte := [0xE2]

/-- `NOP`. -/
def frameNop : List Byte := [0xFF]

/-! ### The wire decoder -/

/-- What the frame decoder says of a byte sequence. -/
inductive FrameDecode where
  /-- One of the 8 commands. -/
  | command (i : Instr)
  /-- Byte 0 is none of the 8 byte-codes (R95). -/
  | notCommand (byte0 : Byte)
  /-- Byte 0 is a byte-code, but the bytes after it are not those R84 and R98 give it (or there is no byte 0). -/
  | malformed
deriving DecidableEq, Repr

/-- The wire command decoder of R81, with the operand bytes of R84 and the lengths of R98. -/
def decodeFrame (d : DescTable) : List Byte → FrameDecode
  | [] => .malformed
  | b :: rest =>
    let a := addressField b
    if b &&& 0xE0 = 0x00 then
      if rest = dummies (d.sizeOf a) then .command (.wireRdReg a) else .malformed
    else if b &&& 0xE0 = 0x20 then
      if rest.length ≤ d.sizeOf a then .command (.wireWrReg a rest) else .malformed
    else if b = 0x60 then
      if rest = dummies 1 then .command .wireRdRxplw else .malformed
    else if b = 0x61 then
      if 1 ≤ rest.length ∧ rest.length ≤ 32 ∧ rest = dummies rest.length then
        .command (.wireRdRxpl rest.length)
      else .malformed
    else if b = 0xA0 then
      if 1 ≤ rest.length ∧ rest.length ≤ 32 then .command (.wireWrTxpl rest) else .malformed
    else if b = 0xE1 then
      if rest = [] then .command .wireFlushTx else .malformed
    else if b = 0xE2 then
      if rest = [] then .command .wireFlushRx else .malformed
    else if b = 0xFF then
      if rest = [] then .command .wireNop else .malformed
    else .notCommand b

/-! ### The host request decoder -/

/-- What the request decoder says of the bytes at the host port. -/
inductive RequestDecode where
  /-- A whole request, and the bytes after it. -/
  | request (i : Instr) (rest : List Byte)
  /-- A whole request whose `OP` selects no operation (R97), and the bytes after it. -/
  | illegal (op : Byte) (rest : List Byte)
  /-- Not all the bytes of a request are there yet (R87). -/
  | incomplete
deriving DecidableEq, Repr

/-- The operation an `OP` selects, with its operands (R88); none for 0x0E to 0xFF (R97). -/
def hostOperation (op addr : Byte) (data : List Byte) : Option Instr :=
  match op.toNat with
  | 0x00 => some (.readRegister addr)
  | 0x01 => some (.writeRegister addr data)
  | 0x02 => some (.writeRegisterByte addr (data.headD 0))
  | 0x03 => some .readRXPayloadWidth
  | 0x04 => some .readRXPayload
  | 0x05 => some (.writeTXPayload data)
  | 0x06 => some .flushTX
  | 0x07 => some .flushRX
  | 0x08 => some .readState
  | 0x09 => some .getLastState
  | 0x0A => some .receive
  | 0x0B => some .transmit
  | 0x0C => some .deactivateCE
  | 0x0D => some .processState
  | _ => none

/-- How many data bytes follow the header (R87): `LEN`, but exactly one for the byte overload whatever `LEN` says. -/
def requestDataLength (op len : Byte) : Nat :=
  if op = 0x02 then 1 else len.toNat

/-- The host request decoder (R87): `OP`, `ADDR`, `LEN`, then the data bytes, all consumed whatever the operation. -/
def decodeRequest : List Byte → RequestDecode
  | op :: addr :: len :: tail =>
    if tail.length < requestDataLength op len then .incomplete
    else
      match hostOperation op addr (tail.take (requestDataLength op len)) with
      | some i => .request i (tail.drop (requestDataLength op len))
      | none => .illegal op (tail.drop (requestDataLength op len))
  | _ => .incomplete

/-! ### The encoder -/

/-- A host request (R87): header and data. -/
def requestBytes (op addr : Byte) (data : List Byte) : List Byte :=
  op :: addr :: BitVec.ofNat 8 data.length :: data

/-- The bytes of an instruction: a frame for a wire command (R81, R84), a request for a host operation (R87, R88).
Operand bytes an operation ignores are written as 0. -/
def encode (d : DescTable) : Instr → List Byte
  | .wireRdReg a => frameRdReg d a
  | .wireWrReg a bytes => frameWrReg a bytes
  | .wireRdRxplw => frameRdRxplw
  | .wireRdRxpl width => frameRdRxpl width
  | .wireWrTxpl payload => frameWrTxpl payload
  | .wireFlushTx => frameFlushTx
  | .wireFlushRx => frameFlushRx
  | .wireNop => frameNop
  | .readRegister address => requestBytes 0x00 address []
  | .writeRegister address bytes => requestBytes 0x01 address bytes
  | .writeRegisterByte address byte => requestBytes 0x02 address [byte]
  | .readRXPayloadWidth => requestBytes 0x03 0 []
  | .readRXPayload => requestBytes 0x04 0 []
  | .writeTXPayload payload => requestBytes 0x05 0 payload
  | .flushTX => requestBytes 0x06 0 []
  | .flushRX => requestBytes 0x07 0 []
  | .readState => requestBytes 0x08 0 []
  | .getLastState => requestBytes 0x09 0 []
  | .receive => requestBytes 0x0A 0 []
  | .transmit => requestBytes 0x0B 0 []
  | .deactivateCE => requestBytes 0x0C 0 []
  | .processState => requestBytes 0x0D 0 []

/-! ### The words of spec/opcode_table.json

Both sets are given by 8 bits of byte 0, and the words 0x00 to 0x0D stand in both. The table word does not say which set
it is of, so the model reads those 14 words as host operations and every other as a wire command (log 17). -/

/-- Byte `k` of a table word: byte 0 is bits 7:0, byte 1 bits 15:8, and so on. -/
def tableByte (w k : Nat) : Byte :=
  BitVec.ofNat 8 (w >>> (8 * k))

/-- The request a table word stands for at the host port: header and as many data bytes as it announces. -/
def tableRequest (w : Nat) : List Byte :=
  tableByte w 0 :: tableByte w 1 :: tableByte w 2 ::
    (List.range (requestDataLength (tableByte w 0) (tableByte w 2))).map fun k => tableByte w (3 + k)

/-- How many bytes follow byte 0 in the frame a table word stands for, when the table gives byte 0 alone. -/
def tableOperands (d : DescTable) (byte0 : Byte) : Nat :=
  if byte0 &&& 0xE0 = 0x00 then d.sizeOf (addressField byte0)
  else if byte0 &&& 0xE0 = 0x20 then 1
  else if byte0 = 0x60 ∨ byte0 = 0x61 ∨ byte0 = 0xA0 then 1
  else 0

/-- The frame a table word stands for on the wire. -/
def tableFrame (d : DescTable) (nbits w : Nat) : List Byte :=
  tableByte w 0 ::
    (List.range (max (nbits / 8 - 1) (tableOperands d (tableByte w 0)))).map fun k => tableByte w (1 + k)

/-- A table word that is read as a host request: the 14 operations of R88. -/
def isHostWord (w : Nat) : Bool :=
  decide ((tableByte w 0).toNat ≤ 0x0D)

/-- The instruction the decoders read from a table word, with the default descriptor table (log 17). -/
def decodeTableWord (nbits w : Nat) : Option Instr :=
  if isHostWord (w % 2 ^ nbits) then
    match decodeRequest (tableRequest (w % 2 ^ nbits)) with
    | .request i _ => some i
    | .illegal _ _ => none
    | .incomplete => none
  else
    match decodeFrame Config.defaultDesc (tableFrame Config.defaultDesc nbits (w % 2 ^ nbits)) with
    | .command i => some i
    | .notCommand _ => none
    | .malformed => none

end Sys2Proof
end

