-- ==== Sys2Proof/Machine/State.lean ====
section
/-! DEFINITION. The state of the block as plain data: the tuple CP of 10_state, the observation trace (R43), and the
model's own fields for what comes in and goes out of the block. The reset state (70_reset R261). -/

namespace Sys2Proof.Machine

/-- The operation named in SEQ (10_state R28): the 14 host operations of 30_encoding R88. -/
inductive HostOp where
  | readRegister | writeRegister | writeRegisterByte | readRXPayloadWidth | readRXPayload | writeTXPayload
  | flushTX | flushRX | readState | getLastState | receive | transmit | deactivateCE | processState
deriving DecidableEq, Repr

/-- The phases of SEQ (10_state R28). -/
inductive Phase where
  | idle | check | frame | xchg | decode | ceDrive | ceHold | done
deriving DecidableEq, Repr

/-- The sequencer position SEQ = (op, k, phase) (10_state R28); `op` is none for NONE. -/
structure Seq where
  op : Option HostOp
  k : Nat
  phase : Phase
deriving DecidableEq, Repr

/-- SEQ at rest, (NONE, 0, IDLE) (10_state R28). -/
def Seq.rest : Seq := ⟨none, 0, .idle⟩

/-- One event of the observation trace (10_state R43). -/
inductive Event where
  /-- `X(tx, rx)`: a successful exchange. -/
  | x (tx rx : List Byte)
  /-- `XFAIL(tx)`: an exchange that failed. -/
  | xfail (tx : List Byte)
  /-- `CE(1)`, when the hold has elapsed, or `CE(0)`. -/
  | ce (level : Bool)
deriving DecidableEq, Repr

/-- The error kinds of 60_exceptions R231. -/
inductive ErrKind where
  | protocolRange | sizeMismatch | payloadLength | transport | illegalOperation | rxWidth
deriving DecidableEq, Repr

/-- The tagged result of a poll (45_event R211, 30_encoding R90). -/
inductive PollResult where
  | idle
  | received (pipe : BitVec 3) (payload : List Byte)
  | sent
  | retransmitLimitExceeded
deriving DecidableEq, Repr

/-- The result registers RES of the host port (10_state R42). -/
structure Res where
  err : Byte
  status : Byte
  event : Byte
  pipe : Byte
  len : Byte
  data : Vector Byte 32
deriving DecidableEq, Repr

/-- Why the machine stops with a fault. -/
inductive Fault where
  /-- Raised by a step of a machine that `readRXPayload` or `processState` left faulted, after a payload width above 32
  (42_payload R154, 60_exceptions R236, R243). Safe: the spec's own model-level fault (log 5). -/
  | rxWidthFault
deriving DecidableEq, Repr

/-- Why there is no meaning. -/
inductive Refusal where
  /-- Raised by an arm of exec whose instruction has no meaning yet. Safe. -/
  | notModelled (mnemonic : String)
  /-- Raised by a step that is handed a frame whose byte 0 is none of the 8 commands (30_encoding R95). Safe: the block
  never emits one (log 19). -/
  | notWireCommand (byte0 : Byte)
  /-- Raised by a step that is handed a frame, or by a wire command that is given operands, that R84 and R98 of
  30_encoding do not allow. Safe: the block never emits such a frame (log 19). -/
  | malformedFrame
deriving DecidableEq, Repr

/-- The whole state. The spec's fields come first, the model's own after them. -/
structure State where
  /-- DESC (R20): no operation writes it. -/
  desc : DescTable
  /-- TXBUF (R22). -/
  txbuf : Vector Byte 64
  /-- RXBUF (R23). -/
  rxbuf : Vector Byte 64
  /-- XLEN (R24). -/
  xlen : BitVec 7
  /-- LAST_STATUS (R25). -/
  lastStatus : Byte
  /-- LS_VALID (R26). -/
  lsValid : Bool
  /-- CE_OUT (R27). -/
  ceOut : Bool
  /-- SEQ (R28). -/
  seq : Seq
  /-- HOLD (R29). -/
  hold : Nat
  /-- RES (R42). -/
  res : Res
  /-- The observation trace (R43), oldest event first. -/
  trace : List Event
  /-- The answers of the device and link to the exchanges to come, oldest first (R44; log 2). Model's own. -/
  link : List LinkAnswer
  /-- The bytes the host has yet to hand over (30_encoding R87; log 13). Model's own. -/
  hostIn : List Byte
  /-- The response bytes the host has taken (30_encoding R89; log 14). Model's own. -/
  hostOut : List Byte
  /-- A command buffer prepared for the transport outside any operation (40_transport R110; log 16). Model's own. -/
  frameIn : List Byte
  /-- How many free values have been used (log 15). Model's own. -/
  draws : Nat
  /-- The model-level fault reached, if any (00_scope R11; log 5). Model's own. -/
  halted : Option Fault
deriving DecidableEq, Repr

/-- RES before the first completion: unspecified by 10_state R42, all zero here. DESIGN CHOICE (log 7). -/
def Res.reset : Res := ⟨0, 0, 0, 0, 0, Vector.replicate 32 0⟩

/-- The machine right after reset (70_reset R261). Buffers, XLEN, LAST_STATUS and RES: DESIGN CHOICE (log 7);
CE_OUT is the OPEN parameter (log 8). -/
def State.reset : State where
  desc := Config.defaultDesc
  txbuf := Vector.replicate 64 0
  rxbuf := Vector.replicate 64 0
  xlen := 0
  lastStatus := 0
  lsValid := false
  ceOut := Config.ceReset
  seq := Seq.rest
  hold := 0
  res := Res.reset
  trace := []
  link := []
  hostIn := []
  hostOut := []
  frameIn := []
  draws := 0
  halted := none

end Sys2Proof.Machine
end

