-- ==== Sys2Proof/Machine/Flags.lean ====
section
/-! DEFINITION. The bits of the status byte and of CONFIG: the five decoders (43_status R174 to R178, R180), the dispatch
order of a poll (45_event R212), the CONFIG computation (44_mode R196), the session mode (10_state R38), and the codes of
errors and events (60_exceptions R231, 30_encoding R90). -/

namespace Sys2Proof.Machine

/-- `txFull(s) = s[0]` (R174). -/
def txFull (s : Byte) : Bool := s.getLsbD 0

/-- `rxPipeNumber(s) = s[3:1]` (R175). -/
def rxPipeNumber (s : Byte) : BitVec 3 := s.extractLsb' 1 3

/-- `maxRT(s) = s[4]` (R176). -/
def maxRT (s : Byte) : Bool := s.getLsbD 4

/-- `txDataSent(s) = s[5]` (R177). -/
def txDataSent (s : Byte) : Bool := s.getLsbD 5

/-- `rxDataReady(s) = s[6]` (R178). -/
def rxDataReady (s : Byte) : Bool := s.getLsbD 6

/-- The arms of a poll (45_event R210). -/
inductive PollArm where
  | received | sent | retransmitLimitExceeded | idle
deriving DecidableEq, Repr

/-- Which arm a poll takes: RX_DR, then TX_DS, then MAX_RT, all on one status byte (45_event R212). -/
def pollArm (s : Byte) : PollArm :=
  if rxDataReady s then .received
  else if txDataSent s then .sent
  else if maxRT s then .retransmitLimitExceeded
  else .idle

/-- `P = 1 << PWR_UP_BIT` (44_mode R196). -/
def pwrUpMask : Byte := 1 <<< Config.pwrUpBit

/-- `R = 1 << PRIM_RX_BIT` (44_mode R196). -/
def primRxMask : Byte := 1 <<< Config.primRxBit

/-- The CONFIG byte `receive` writes: `c | P | R` (44_mode R196). -/
def receiveConfig (c : Byte) : Byte :=
  c ||| pwrUpMask ||| primRxMask

/-- The CONFIG byte `transmit` writes: `(c & ~(P | R)) | P` (44_mode R196). -/
def transmitConfig (c : Byte) : Byte :=
  (c &&& ~~~(pwrUpMask ||| primRxMask)) ||| pwrUpMask

/-- The session modes (10_state R38). -/
inductive SessionMode where
  | idle | receiving | transmitting
deriving DecidableEq, Repr

/-- The session mode as the derived function of the CE level and the device's CONFIG byte (10_state R38). It is no state
of the block and no operation reads it. -/
def sessionMode (ce : Bool) (config : Byte) : SessionMode :=
  if ce && config.getLsbD Config.pwrUpBit then
    if config.getLsbD Config.primRxBit then .receiving else .transmitting
  else .idle

/-- The `ERR` codes (60_exceptions R231). -/
def ErrKind.code : ErrKind → Byte
  | .protocolRange => 1
  | .sizeMismatch => 2
  | .payloadLength => 3
  | .transport => 4
  | .illegalOperation => 5
  | .rxWidth => 6

/-- The `EVENT` tags (30_encoding R90). -/
def PollResult.tag : PollResult → Byte
  | .idle => 0
  | .received _ _ => 1
  | .sent => 2
  | .retransmitLimitExceeded => 3

/-- The `PIPE` byte a poll result fills, if it fills one (30_encoding R89, R94). -/
def PollResult.pipe : PollResult → Option Byte
  | .idle => none
  | .received pipe _ => some (pipe.setWidth 8)
  | .sent => none
  | .retransmitLimitExceeded => none

/-- The payload delivered with a poll result (45_event R213, R214). -/
def PollResult.payload : PollResult → List Byte
  | .idle => []
  | .received _ payload => payload
  | .sent => []
  | .retransmitLimitExceeded => []

end Sys2Proof.Machine
end

