-- ==== Sys2Proof/Machine/Operands.lean ====
section
/-! DEFINITION. Operand checks and operand assembly: the validator (41_register R130 to R133), the payload length check
(42_payload R155), the parts of a response (30_encoding R85), the contents of the buffers (40_transport R112), the
byte-serial host response (30_encoding R89), and the free bytes that fill what the spec leaves open. -/

namespace Sys2Proof.Machine

/-- `validate_read` (41_register R133): the size of the register, or ProtocolRangeError. -/
def validateRead (d : DescTable) (address : Byte) : Except ErrKind Nat :=
  if address.toNat > 31 then .error .protocolRange
  else .ok (d.sizeOf (addressField address))

/-- `validate_write` (41_register R133): the address first, then the length. -/
def validateWrite (d : DescTable) (address : Byte) (bytes : List Byte) : Except ErrKind Unit :=
  if address.toNat > 31 then .error .protocolRange
  else if bytes.length > d.sizeOf (addressField address) then .error .sizeMismatch
  else .ok ()

/-- The payload length check of `writeTXPayload` (42_payload R155). -/
def validatePayload (payload : List Byte) : Except ErrKind Unit :=
  if payload.length < 1 ∨ payload.length > 32 then .error .payloadLength
  else .ok ()

/-- Byte 0 of a response, the status byte (30_encoding R85). -/
def statusOf (rx : List Byte) : Byte :=
  rx.headD Config.dummyByte

/-- Bytes 1 and up of a response (30_encoding R85). -/
def dataOf (rx : List Byte) : List Byte :=
  rx.drop 1

/-- `n` free bytes, numbered from `base` (log 15). -/
def freeBytes (n base : Nat) : List Byte :=
  (List.range n).map fun i => Config.freeByte (base + i)

/-- The first `n` bytes of a sequence, with free bytes for those it lacks. -/
def fitBytes (n : Nat) (bytes : List Byte) (base : Nat) : List Byte :=
  (bytes ++ freeBytes n base).take n

/-- A buffer re-initialised in full to DUMMY_BYTE and then given `bytes` from index 0 on (40_transport R112). -/
def bufferOf (bytes : List Byte) : Vector Byte 64 :=
  ⟨((bytes ++ dummies 64).take 64).toArray, by simp [dummies]⟩

/-- RES.DATA filled with `bytes` from index 0 on, and with free bytes beyond them (10_state R42; log 15). -/
def resDataOf (bytes : List Byte) (base : Nat) : Vector Byte 32 :=
  ⟨(fitBytes 32 bytes base).toArray, by simp [fitBytes, freeBytes]⟩

/-- The sequence result a response carries, `DATA[0..LEN-1]` (30_encoding R89). -/
def Res.payload (r : Res) : List Byte :=
  r.data.toList.take r.len.toNat

/-- The response as the host port puts it out, byte-serial (30_encoding R89). -/
def responseBytes (r : Res) : List Byte :=
  r.err :: r.status :: r.event :: r.pipe :: r.len :: r.payload

end Sys2Proof.Machine
end

