-- ==== Sys2Proof/Machine/Ops.lean ====
section
/-! DEFINITION. The named operations every meaning is made of: the updates of the state, the transport (40_transport),
the CE sequencer (44_mode R190 to R193), completing an operation and raising an error (60_exceptions R240), admission at
the host port and the transport's port (20_memory R65), and fetching (30_encoding R87). -/

namespace Sys2Proof.Machine

/-! ### Updates -/

/-- SEQ is written. -/
def State.setSeq (s : State) (q : Seq) : State := { s with seq := q }

/-- SEQ.phase is written. -/
def State.setPhase (s : State) (p : Phase) : State := { s with seq := { s.seq with phase := p } }

/-- SEQ.k counts one more completed exchange (40_transport R111). -/
def State.countExchange (s : State) : State := { s with seq := { s.seq with k := s.seq.k + 1 } }

/-- The frame build: both buffers re-initialised in full, the frame copied, XLEN set (40_transport R112). -/
def State.buildFrame (s : State) (tx : List Byte) : State :=
  { s with txbuf := bufferOf tx, rxbuf := bufferOf [], xlen := BitVec.ofNat 7 tx.length }

/-- The bytes of an answer enter RXBUF from index 0 on; the rest keeps its re-initialised value (40_transport R113). -/
def State.receiveBytes (s : State) (rx : List Byte) : State := { s with rxbuf := bufferOf rx }

/-- The status latch, the only write of LAST_STATUS and LS_VALID (40_transport R114). -/
def State.latchStatus (s : State) (b : Byte) : State := { s with lastStatus := b, lsValid := true }

/-- CE_OUT is driven. -/
def State.driveCE (s : State) (level : Bool) : State := { s with ceOut := level }

/-- HOLD is loaded, or has run down. -/
def State.setHold (s : State) (n : Nat) : State := { s with hold := n }

/-- RES is written. -/
def State.setRes (s : State) (r : Res) : State := { s with res := r }

/-- One event is appended to the trace (10_state R43). -/
def State.emit (s : State) (e : Event) : State := { s with trace := s.trace ++ [e] }

/-- The answers still to come. -/
def State.setLink (s : State) (l : List LinkAnswer) : State := { s with link := l }

/-- The bytes still to come from the host. -/
def State.setHostIn (s : State) (l : List Byte) : State := { s with hostIn := l }

/-- The command buffer handed to the transport. -/
def State.setFrameIn (s : State) (l : List Byte) : State := { s with frameIn := l }

/-- Bytes the host has taken. -/
def State.putOut (s : State) (l : List Byte) : State := { s with hostOut := s.hostOut ++ l }

/-- `n` free values have been used. -/
def State.useDraws (s : State) (n : Nat) : State := { s with draws := s.draws + n }

/-- The model-level fault is reached (00_scope R11). -/
def State.setHalted (s : State) (f : Option Fault) : State := { s with halted := f }

/-! ### Reads -/

/-- BUSY, the derived bit (10_state R28). -/
def State.busy (s : State) : Bool := decide (s.seq.phase ≠ .idle)

/-- `TXBUF[0..XLEN-1]`, what an exchange sends (40_transport R113). -/
def State.outFrame (s : State) : List Byte := s.txbuf.toList.take s.xlen.toNat

/-- `RXBUF[0..XLEN-1]`, what an exchange returns (40_transport R115). -/
def State.inFrame (s : State) : List Byte := s.rxbuf.toList.take s.xlen.toNat

/-- A read of LAST_STATUS: while LS_VALID is 0, a free byte (10_state R26; log 6). -/
def State.statusByte (s : State) : Byte :=
  if s.lsValid then s.lastStatus else Config.freeByte s.draws

/-! ### Completing an operation -/

/-- Phase DONE: the response is formed in RES (30_encoding R89). `STATUS` is a read of LAST_STATUS; `PIPE` and the bytes
of `DATA` that the operation does not fill are free bytes (10_state R42; log 15). -/
def respond (err : Byte) (event : Byte) (pipe : Option Byte) (data : List Byte) (s : State) : State :=
  ((s.setPhase .done).setRes
    { err := err
      status := s.statusByte
      event := event
      pipe := pipe.getD (Config.freeByte (s.draws + 1))
      len := BitVec.ofNat 8 data.length
      data := resDataOf data (s.draws + 2) }).useDraws 34

/-- An operation ends in success with a sequence result (`[]` for none). -/
def complete (data : List Byte) (s : State) : State :=
  respond 0 PollResult.idle.tag none data s

/-- A poll ends in success with a tagged result (45_event R211). -/
def completePoll (r : PollResult) (s : State) : State :=
  respond 0 r.tag r.pipe r.payload s

/-- `raise E` (60_exceptions R240): the operation stops here, the response carries the code, nothing else. -/
def raise (e : ErrKind) (s : State) : State :=
  respond e.code PollResult.idle.tag none [] s

/-- `fault RxWidthFault` (42_payload R154): reported as `ERR` = 6, and the machine is faulted for good
(60_exceptions R236, R243; log 5). -/
def faultRxWidth (s : State) : State :=
  (raise .rxWidth s).setHalted (some .rxWidthFault)

/-- BUSY falls when the host has taken the response (60_exceptions R240; log 14). -/
def takeResponse (s : State) : State :=
  (s.putOut (responseBytes s.res)).setSeq Seq.rest

/-! ### Running a part of an operation -/

/-- A part of an operation either goes on with a value, or has ended the operation (an error, a fault, a stall). -/
inductive Run (α : Type) where
  | on (s : State) (a : α)
  | over (s : State)

/-- The next part, if the operation goes on. -/
def Run.bind {α β : Type} (r : Run α) (f : State → α → Run β) : Run β :=
  match r with
  | .on s a => f s a
  | .over s => .over s

/-- The value seen otherwise. -/
def Run.map {α β : Type} (r : Run α) (f : α → β) : Run β :=
  match r with
  | .on s a => .on s (f a)
  | .over s => .over s

/-- The end of the operation, if it has not ended before. -/
def Run.close {α : Type} (r : Run α) (f : State → α → State) : State :=
  match r with
  | .on s a => f s a
  | .over s => s

/-! ### The transport -/

/-- An answer as an exchange of `n` bytes takes it: exactly `n` bytes come in (40_transport R110). A listed answer with
more bytes is cut, and the bytes it lacks are free (log 3). -/
def fitAnswer (n : Nat) (a : LinkAnswer) (s : State) : LinkAnswer × State :=
  match a with
  | .ok bytes => (.ok (fitBytes n bytes s.draws), s.useDraws n)
  | .fail => (.fail, s)
  | .never => (.never, s)

/-- `link(TXBUF[0..XLEN-1])` (40_transport R111, R113): the next answer the state lists, else a free one (log 2). -/
def linkAnswer (n : Nat) (s : State) : LinkAnswer × State :=
  match s.link with
  | a :: more => fitAnswer n a (s.setLink more)
  | [] => fitAnswer n (Config.freeLink s.draws) (s.useDraws 1)

/-- The successful end of an exchange: RXBUF, the status latch, the count, the event, the result (40_transport R111). -/
def exchangeDone (rx : List Byte) (s : State) : Run (List Byte) :=
  let t := ((s.receiveBytes rx).setPhase .decode)
  let u := ((t.latchStatus (statusOf t.inFrame)).countExchange).emit (.x t.outFrame t.inFrame)
  .on u u.inFrame

/-- Phases FRAME and XCHG: the frame is built and the link is about to be asked (40_transport R112, R113). -/
def atLink (tx : List Byte) (s : State) : State :=
  ((s.setPhase .frame).buildFrame tx).setPhase .xchg

/-- What the exchange does with the link's answer (40_transport R111): a failure raises TransportError (R116), a stall
leaves the block in phase XCHG (R117). -/
def onAnswer : LinkAnswer × State → Run (List Byte)
  | (.ok rx, u) => exchangeDone rx u
  | (.fail, u) => .over (raise .transport (u.emit (.xfail u.outFrame)))
  | (.never, u) => .over u

/-- `Exchange(tx)` (40_transport R111): `TXBUF[0..XLEN-1]` goes out, and what the link answers is dealt with. -/
def exchange (tx : List Byte) (s : State) : Run (List Byte) :=
  onAnswer (linkAnswer (atLink tx s).outFrame.length (atLink tx s))

/-- One `RD_REG` exchange: the register's bytes (41_register R134). -/
def runRdReg (a : BitVec 5) (s : State) : Run (List Byte) :=
  (exchange (frameRdReg s.desc a) s).map dataOf

/-- One `WR_REG` exchange: the resulting Status (41_register R136, R137). -/
def runWrReg (a : BitVec 5) (bytes : List Byte) (s : State) : Run Byte :=
  (exchange (frameWrReg a bytes) s).map statusOf

/-- One `RD_RXPLW` exchange: the width, response byte 1 (42_payload R150, 30_encoding R93). -/
def runRdRxplw (s : State) : Run Byte :=
  (exchange frameRdRxplw s).map fun rx => (dataOf rx).headD Config.dummyByte

/-- `readRXPayload` as a part of an operation (42_payload R152 to R154): the width probe, then no exchange for a width of
0, a fault for one above 32, and one payload exchange otherwise. -/
def runReadRXPayload (s : State) : Run (List Byte) :=
  (runRdRxplw s).bind fun t w =>
    if w = 0 then .on t []
    else if w.toNat > 32 then .over (faultRxWidth t)
    else (exchange (frameRdRxpl w.toNat) t).map dataOf

/-- One `NOP` exchange: the current Status (43_status R170). -/
def runNop (s : State) : Run Byte :=
  (exchange frameNop s).map statusOf

/-! ### The CE sequencer -/

/-- `AssertCE()` (44_mode R191): CE_OUT is 1, HOLD runs to zero, and only then CE(1) is seen (log 9). -/
def assertCE (s : State) : State :=
  (((((s.setPhase .ceDrive).driveCE true).setPhase .ceHold).setHold Config.holdCount).setHold 0).emit (.ce true)

/-- `DeassertCE()` (44_mode R192): no hold. -/
def deassertCE (s : State) : State :=
  ((s.setPhase .ceDrive).driveCE false).emit (.ce false)

/-- The read-modify-write of CONFIG and the assertion of CE that `receive` and `transmit` share (44_mode R194, R195):
read register 0, compute, write register 0, assert CE. -/
def changeMode (f : Byte → Byte) (s : State) : State :=
  ((runRdReg 0 s).bind fun t bytes => runWrReg 0 [f (bytes.headD Config.dummyByte)] t).close
    fun t _ => complete [] (assertCE t)

/-! ### Admission -/

/-- A host operation is accepted only when the block is idle (20_memory R65); presented while BUSY it has no effect
(log 21). On a faulted machine nothing runs (60_exceptions R243). -/
def accept (op : HostOp) (body : State → State) (s : State) : Host.Outcome State Fault Refusal :=
  match s.halted with
  | some f => .fault f
  | none => if s.busy then .next s else .next (body (s.setSeq ⟨some op, 0, .check⟩))

/-- A wire command run by itself, outside any host operation (log 16): one `Exchange`, after which the block is at rest. -/
def sendFrame (tx : List Byte) (s : State) : State :=
  (exchange tx (s.setSeq ⟨none, 0, .frame⟩)).close fun t _ => t.setSeq Seq.rest

/-- Admission of a wire command: the frame is one of the 8 commands of R81, and no other exchange is in progress
(20_memory R59). -/
def acceptFrame (i : Instr) (s : State) : Host.Outcome State Fault Refusal :=
  match s.halted with
  | some f => .fault f
  | none =>
    if wellFormed s.desc i then
      if s.busy then .next s else .next (sendFrame (encode s.desc i) s)
    else .refused .malformedFrame

/-- A request whose `OP` selects no operation (30_encoding R97): IllegalOperation, nothing else touched. -/
def illegalOperation (s : State) : State :=
  raise .illegalOperation (s.setSeq ⟨none, 0, .check⟩)

/-! ### Fetching -/

/-- What an idle block finds at its ports. -/
inductive Fetched where
  /-- An instruction, and the state in which its bytes have been taken. -/
  | instr (i : Instr) (s : State)
  /-- A whole request that selects no operation. -/
  | illegal (s : State)
  /-- No whole request yet. -/
  | waiting
  /-- A command buffer that is no frame of the block. -/
  | noFrame (r : Refusal)

/-- The host port: the next request, latched whole (30_encoding R87, 20_memory R70). -/
def fetchRequest (s : State) : Fetched :=
  match decodeRequest s.hostIn with
  | .request i rest => .instr i (s.setHostIn rest)
  | .illegal _ rest => .illegal (s.setHostIn rest)
  | .incomplete => .waiting

/-- The transport's port: a prepared command buffer (40_transport R110; log 16). -/
def fetchFrame (s : State) : Fetched :=
  match decodeFrame s.desc s.frameIn with
  | .command i => .instr i (s.setFrameIn [])
  | .notCommand b => .noFrame (.notWireCommand b)
  | .malformed => .noFrame .malformedFrame

/-- What an idle block runs next: a prepared command buffer if there is one, else the next host request. -/
def fetch (s : State) : Fetched :=
  if s.frameIn = [] then fetchRequest s else fetchFrame s

/-- A table word placed where an idle block fetches next (log 17, 18): the words of the 14 host operations, and those that
are no wire command, at the host port, the others in the command buffer. The block is put at rest. -/
def placeWord (s : State) (nbits w : Nat) : State :=
  let t := (s.setSeq Seq.rest).setHalted none
  let v := w % 2 ^ nbits
  if isHostWord v then (t.setFrameIn []).setHostIn (tableRequest v ++ s.hostIn)
  else
    match decodeFrame s.desc (tableFrame s.desc nbits v) with
    | .command _ => t.setFrameIn (tableFrame s.desc nbits v)
    | .notCommand _ => (t.setFrameIn []).setHostIn (tableRequest v ++ s.hostIn)
    | .malformed => (t.setFrameIn []).setHostIn (tableRequest v ++ s.hostIn)

end Sys2Proof.Machine
end

