-- ==== Sys2Proof/Machine/EventDispatch.lean ====
section
/-! DEFINITION. The single-step poll `processState` (45_event). -/

namespace Sys2Proof.Machine

/-- The end of a poll whose NOP exchange gave the status byte `b` (R210, R212 to R214). The pipe number of a Received
result is that of the same byte (R213). -/
def pollWith (b : Byte) (s : State) : State :=
  match pollArm b with
  | .received => (runReadRXPayload s).close fun u payload => completePoll (.received (rxPipeNumber b) payload) u
  | .sent => completePoll .sent s
  | .retransmitLimitExceeded => completePoll .retransmitLimitExceeded s
  | .idle => completePoll .idle s

/-- What `processState` does once accepted (R210 to R217): one NOP exchange, then the arm its status byte chooses. -/
def processStateBody (s : State) : State :=
  (runNop s).close fun u b => pollWith b u

/-- `processState()` (R210). -/
def execProcessState (s : State) : Host.Outcome State Fault Refusal :=
  accept .processState processStateBody s

end Sys2Proof.Machine
end

