-- ==== Sys2Proof/Machine/ModeCE.lean ====
section
/-! DEFINITION. The mode transitions and the deassertion of CE (44_mode). -/

namespace Sys2Proof.Machine

/-- `receive()` (R194, R196, R199): set PWR_UP and PRIM_RX in CONFIG, then assert CE. -/
def execReceive (s : State) : Host.Outcome State Fault Refusal :=
  accept .receive (changeMode receiveConfig) s

/-- `transmit()` (R195, R196, R199): of PWR_UP and PRIM_RX set only PWR_UP in CONFIG, then assert CE. -/
def execTransmit (s : State) : Host.Outcome State Fault Refusal :=
  accept .transmit (changeMode transmitConfig) s

/-- What `deactivateCE` does once accepted (R198). -/
def deactivateCEBody (s : State) : State :=
  complete [] (deassertCE s)

/-- `deactivateCE()` (R198). -/
def execDeactivateCE (s : State) : Host.Outcome State Fault Refusal :=
  accept .deactivateCE deactivateCEBody s

end Sys2Proof.Machine
end

