-- ==== Sys2Proof/Machine/Payload.lean ====
section
/-! DEFINITION. Payload framing and FIFO flush: the five operations of 42_payload. -/

namespace Sys2Proof.Machine

/-- What `readRXPayloadWidth` does once accepted (R150, R151): the width byte as received, neither tested nor clamped. -/
def readRXPayloadWidthBody (s : State) : State :=
  (runRdRxplw s).close fun u w => complete [w] u

/-- What `readRXPayload` does once accepted (R152 to R154, R160). -/
def readRXPayloadBody (s : State) : State :=
  (runReadRXPayload s).close fun u payload => complete payload u

/-- What `writeTXPayload` does once accepted (R155, R156): the length check, then one exchange. -/
def writeTXPayloadBody (payload : List Byte) (s : State) : State :=
  match validatePayload payload with
  | .error e => raise e s
  | .ok _ => (exchange (frameWrTxpl payload) s).close fun u _ => complete [] u

/-- What `flushTX` does once accepted (R157): one exchange; the Status is the LAST_STATUS of the response. -/
def flushTXBody (s : State) : State :=
  (exchange frameFlushTx s).close fun u _ => complete [] u

/-- What `flushRX` does once accepted (R158): one exchange; the Status is the LAST_STATUS of the response. -/
def flushRXBody (s : State) : State :=
  (exchange frameFlushRx s).close fun u _ => complete [] u

/-- `readRXPayloadWidth()` (R150). -/
def execReadRXPayloadWidth (s : State) : Host.Outcome State Fault Refusal :=
  accept .readRXPayloadWidth readRXPayloadWidthBody s

/-- `readRXPayload()` (R152). -/
def execReadRXPayload (s : State) : Host.Outcome State Fault Refusal :=
  accept .readRXPayload readRXPayloadBody s

/-- `writeTXPayload(payload)` (R156). -/
def execWriteTXPayload (payload : List Byte) (s : State) : Host.Outcome State Fault Refusal :=
  accept .writeTXPayload (writeTXPayloadBody payload) s

/-- `flushTX()` (R157). -/
def execFlushTX (s : State) : Host.Outcome State Fault Refusal :=
  accept .flushTX flushTXBody s

/-- `flushRX()` (R158). -/
def execFlushRX (s : State) : Host.Outcome State Fault Refusal :=
  accept .flushRX flushRXBody s

end Sys2Proof.Machine
end

