-- ==== Sys2Proof/Machine/RegisterAccess.lean ====
section
/-! DEFINITION. Register access: `readRegister`, `writeRegister` and the byte overload (41_register). -/

namespace Sys2Proof.Machine

/-- What `readRegister` does once accepted (R134, R135): validate, one exchange, the register's bytes as received. -/
def readRegisterBody (address : Byte) (s : State) : State :=
  match validateRead s.desc address with
  | .error e => raise e s
  | .ok _ => (runRdReg (addressField address) s).close fun u bytes => complete bytes u

/-- `readRegister(address)` (R134). -/
def execReadRegister (address : Byte) (s : State) : Host.Outcome State Fault Refusal :=
  accept .readRegister (readRegisterBody address) s

/-- What `writeRegister` does once accepted (R136 to R139): validate, one exchange; the resulting Status is the
LAST_STATUS of the response (R137). -/
def writeRegisterBody (address : Byte) (bytes : List Byte) (s : State) : State :=
  match validateWrite s.desc address bytes with
  | .error e => raise e s
  | .ok _ => (runWrReg (addressField address) bytes s).close fun u _ => complete [] u

/-- `writeRegister(address, bytes)` (R136). -/
def execWriteRegister (address : Byte) (bytes : List Byte) (s : State) : Host.Outcome State Fault Refusal :=
  accept .writeRegister (writeRegisterBody address bytes) s

/-- `writeRegister(address, byte)`, exactly `writeRegister(address, [byte])` (R140). -/
def execWriteRegisterByte (address byte : Byte) (s : State) : Host.Outcome State Fault Refusal :=
  accept .writeRegisterByte (writeRegisterBody address [byte]) s

end Sys2Proof.Machine
end

