-- ==== Sys2Proof/Machine/Status.lean ====
section
/-! DEFINITION. The status probe and the cached status (43_status). -/

namespace Sys2Proof.Machine

/-- What `readState` does once accepted (R170, R171): one NOP exchange; the Status is the LAST_STATUS of the response. -/
def readStateBody (s : State) : State :=
  (runNop s).close fun u _ => complete [] u

/-- `readState()` (R170). -/
def execReadState (s : State) : Host.Outcome State Fault Refusal :=
  accept .readState readStateBody s

/-- `getLastState()` (R172, R173): no exchange; the response's STATUS is the whole result. -/
def execGetLastState (s : State) : Host.Outcome State Fault Refusal :=
  accept .getLastState (complete []) s

end Sys2Proof.Machine
end

