-- ==== Sys2Proof/Machine/Wire.lean ====
section
/-! DEFINITION. The eight wire commands (30_encoding R81), each run by itself as one exchange of its frame (40_transport
R111; log 16). The host operations send the same frames. -/

namespace Sys2Proof.Machine

/-- `RD_REG a` (R81; 41_register R134): the register's bytes are in RXBUF[1..] after it. -/
def execWireRdReg (a : BitVec 5) (s : State) : Host.Outcome State Fault Refusal :=
  acceptFrame (.wireRdReg a) s

/-- `WR_REG a` (R81; 41_register R136, R138, R139). -/
def execWireWrReg (a : BitVec 5) (bytes : List Byte) (s : State) : Host.Outcome State Fault Refusal :=
  acceptFrame (.wireWrReg a bytes) s

/-- `RD_RXPLW` (R81; 42_payload R150): the width is in RXBUF[1] after it. -/
def execWireRdRxplw (s : State) : Host.Outcome State Fault Refusal :=
  acceptFrame .wireRdRxplw s

/-- `RD_RXPL` (R81; 42_payload R152): the payload is in RXBUF[1..] after it. -/
def execWireRdRxpl (width : Nat) (s : State) : Host.Outcome State Fault Refusal :=
  acceptFrame (.wireRdRxpl width) s

/-- `WR_TXPL` (R81; 42_payload R156). -/
def execWireWrTxpl (payload : List Byte) (s : State) : Host.Outcome State Fault Refusal :=
  acceptFrame (.wireWrTxpl payload) s

/-- `FLUSH_TX` (R81; 42_payload R157). -/
def execWireFlushTx (s : State) : Host.Outcome State Fault Refusal :=
  acceptFrame .wireFlushTx s

/-- `FLUSH_RX` (R81; 42_payload R158). -/
def execWireFlushRx (s : State) : Host.Outcome State Fault Refusal :=
  acceptFrame .wireFlushRx s

/-- `NOP` (R81; 43_status R170). -/
def execWireNop (s : State) : Host.Outcome State Fault Refusal :=
  acceptFrame .wireNop s

end Sys2Proof.Machine
end

