-- ==== Sys2Proof/Machine/Dispatch.lean ====
section
/-! DEFINITION. The dispatch of an instruction to its meaning, one arm per constructor of Instr. -/

namespace Sys2Proof.Machine

def exec (i : Instr) (s : State) : Host.Outcome State Fault Refusal :=
  match i with
  | .wireRdReg a => Sys2Proof.Machine.execWireRdReg a s
  | .wireWrReg a bytes => Sys2Proof.Machine.execWireWrReg a bytes s
  | .wireRdRxplw => Sys2Proof.Machine.execWireRdRxplw s
  | .wireRdRxpl width => Sys2Proof.Machine.execWireRdRxpl width s
  | .wireWrTxpl payload => Sys2Proof.Machine.execWireWrTxpl payload s
  | .wireFlushTx => Sys2Proof.Machine.execWireFlushTx s
  | .wireFlushRx => Sys2Proof.Machine.execWireFlushRx s
  | .wireNop => Sys2Proof.Machine.execWireNop s
  | .readRegister address => Sys2Proof.Machine.execReadRegister address s
  | .writeRegister address bytes => Sys2Proof.Machine.execWriteRegister address bytes s
  | .writeRegisterByte address byte => Sys2Proof.Machine.execWriteRegisterByte address byte s
  | .readRXPayloadWidth => Sys2Proof.Machine.execReadRXPayloadWidth s
  | .readRXPayload => Sys2Proof.Machine.execReadRXPayload s
  | .writeTXPayload payload => Sys2Proof.Machine.execWriteTXPayload payload s
  | .flushTX => Sys2Proof.Machine.execFlushTX s
  | .flushRX => Sys2Proof.Machine.execFlushRX s
  | .readState => Sys2Proof.Machine.execReadState s
  | .getLastState => Sys2Proof.Machine.execGetLastState s
  | .receive => Sys2Proof.Machine.execReceive s
  | .transmit => Sys2Proof.Machine.execTransmit s
  | .deactivateCE => Sys2Proof.Machine.execDeactivateCE s
  | .processState => Sys2Proof.Machine.execProcessState s

end Sys2Proof.Machine
end

