-- ==== Sys2Proof/Machine/Cycle.lean ====
section
/-! DEFINITION. The cycle of the block: an idle block fetches and runs one instruction, a block that presents a response
has it taken, and a block whose exchange never completes stays as it is (40_transport R117). -/

namespace Sys2Proof.Machine

/-- One cycle. Between steps only the phases IDLE, DONE and XCHG occur; an operation that is in any other phase holds the
block (20_memory R65). -/
def cycle (s : State) : Host.Outcome State Fault Refusal :=
  match s.halted with
  | some f => .fault f
  | none =>
    match s.seq.phase with
    | .idle =>
      match fetch s with
      | .instr i t => exec i t
      | .illegal t => .next (illegalOperation t)
      | .waiting => .next s
      | .noFrame r => .refused r
    | .done => .next (takeResponse s)
    | .check => .next s
    | .frame => .next s
    | .xchg => .next s
    | .decode => .next s
    | .ceDrive => .next s
    | .ceHold => .next s

end Sys2Proof.Machine
end

