-- ==== Sys2Proof/Machine/Step.lean ====
section
/-! DEFINITION. One step of the block, and the state with a table word placed where the next step fetches. -/

namespace Sys2Proof.Machine

/-- One step: one cycle of the block (20_memory R64, R65). -/
def step (s : State) : Host.Outcome State Fault Refusal :=
  cycle s

/-- The state with a table word placed where the next step fetches (log 18). -/
def State.withFetchWord (s : State) (nbits w : Nat) : State :=
  placeWord s nbits w

end Sys2Proof.Machine
end

