-- ==== Sys2Proof/Safety.lean ====
section
/-! DEFINITION. The vocabulary of the claims: when the block is ready, what the transport rules leave after exchanges, what
a response says, and the predicates on states that every step keeps. The states are written out field by field from the
spec, not with the operations of Machine. -/

namespace Sys2Proof.Machine

/-- The block can accept an operation: not faulted, and in phase IDLE (20_memory R65). -/
abbrev State.Ready (s : State) : Prop :=
  s.halted = none ∧ s.seq.phase = .idle

/-- The response says: this code, this status, this event, this sequence (30_encoding R89). -/
def Res.Says (r : Res) (err status event : Byte) (data : List Byte) : Prop :=
  r.err = err ∧ r.status = status ∧ r.event = event ∧ r.len.toNat = data.length ∧ r.payload = data

/-- What one successful exchange of `tx` answered by `rx` leaves (40_transport R111 to R115), but for SEQ; `more` are the
answers that remain. -/
def State.afterExchange (s : State) (tx rx : List Byte) (more : List LinkAnswer) : State :=
  { s with
    txbuf := bufferOf tx
    rxbuf := bufferOf rx
    xlen := BitVec.ofNat 7 tx.length
    lastStatus := rx.headD 0
    lsValid := true
    link := more
    trace := s.trace ++ [.x tx rx] }

/-- What one failed exchange of `tx` leaves (40_transport R116), but for SEQ and RES. -/
def State.afterFailure (s : State) (tx : List Byte) (more : List LinkAnswer) : State :=
  { s with
    txbuf := bufferOf tx
    rxbuf := bufferOf []
    xlen := BitVec.ofNat 7 tx.length
    link := more
    trace := s.trace ++ [.xfail tx] }

/-- What an exchange of `tx` that never completes leaves (40_transport R117), but for SEQ. -/
def State.afterStall (s : State) (tx : List Byte) (more : List LinkAnswer) : State :=
  { s with
    txbuf := bufferOf tx
    rxbuf := bufferOf []
    xlen := BitVec.ofNat 7 tx.length
    link := more }

/-- The first frame an instruction sends, if its operands pass the checks and it makes an exchange at all
(30_encoding R88, 41_register R133, 42_payload R155). -/
def firstFrame (d : DescTable) : Instr → Option (List Byte)
  | .wireRdReg a => some (a.setWidth 8 :: dummies (d.sizeOf a))
  | .wireWrReg a bytes => if bytes.length ≤ d.sizeOf a then some ((0x20 ||| a.setWidth 8) :: bytes) else none
  | .wireRdRxplw => some [0x60, Config.dummyByte]
  | .wireRdRxpl width => if 1 ≤ width ∧ width ≤ 32 then some (0x61 :: dummies width) else none
  | .wireWrTxpl payload => if 1 ≤ payload.length ∧ payload.length ≤ 32 then some (0xA0 :: payload) else none
  | .wireFlushTx => some [0xE1]
  | .wireFlushRx => some [0xE2]
  | .wireNop => some [0xFF]
  | .readRegister address =>
    if address.toNat ≤ 31 then some (address :: dummies (d.sizeOf (addressField address))) else none
  | .writeRegister address bytes =>
    if address.toNat ≤ 31 ∧ bytes.length ≤ d.sizeOf (addressField address) then some ((0x20 ||| address) :: bytes)
    else none
  | .writeRegisterByte address byte => if address.toNat ≤ 31 then some [0x20 ||| address, byte] else none
  | .readRXPayloadWidth => some [0x60, Config.dummyByte]
  | .readRXPayload => some [0x60, Config.dummyByte]
  | .writeTXPayload payload => if 1 ≤ payload.length ∧ payload.length ≤ 32 then some (0xA0 :: payload) else none
  | .flushTX => some [0xE1]
  | .flushRX => some [0xE2]
  | .readState => some [0xFF]
  | .getLastState => none
  | .receive => some (0x00 :: dummies (d.sizeOf 0))
  | .transmit => some (0x00 :: dummies (d.sizeOf 0))
  | .deactivateCE => none
  | .processState => some [0xFF]

/-- The operation named in SEQ while an instruction runs (10_state R28): none for a wire command run by itself. -/
def runningOp : Instr → Option HostOp
  | .wireRdReg _ => none
  | .wireWrReg _ _ => none
  | .wireRdRxplw => none
  | .wireRdRxpl _ => none
  | .wireWrTxpl _ => none
  | .wireFlushTx => none
  | .wireFlushRx => none
  | .wireNop => none
  | .readRegister _ => some .readRegister
  | .writeRegister _ _ => some .writeRegister
  | .writeRegisterByte _ _ => some .writeRegisterByte
  | .readRXPayloadWidth => some .readRXPayloadWidth
  | .readRXPayload => some .readRXPayload
  | .writeTXPayload _ => some .writeTXPayload
  | .flushTX => some .flushTX
  | .flushRX => some .flushRX
  | .readState => some .readState
  | .getLastState => some .getLastState
  | .receive => some .receive
  | .transmit => some .transmit
  | .deactivateCE => some .deactivateCE
  | .processState => some .processState

/-! ### What the trace shows -/

/-- The frame an event shows on the wire (10_state R43). -/
def Event.sent : Event → Option (List Byte)
  | .x tx _ => some tx
  | .xfail tx => some tx
  | .ce _ => none

/-- The status byte an event brings in: byte 0 of a successful exchange (30_encoding R85). -/
def Event.status : Event → Option Byte
  | .x _ rx => some (rx.headD 0)
  | .xfail _ => none
  | .ce _ => none

/-- The CE level an event shows. -/
def Event.level : Event → Option Bool
  | .x _ _ => none
  | .xfail _ => none
  | .ce l => some l

/-- The status byte of the most recent successful exchange. -/
def latestStatus (trace : List Event) : Option Byte :=
  (trace.filterMap Event.status).getLast?

/-- The level of the most recent CE event. -/
def latestLevel (trace : List Event) : Option Bool :=
  (trace.filterMap Event.level).getLast?

/-! ### Predicates every step keeps -/

/-- Every frame seen on the wire is one of the 8 commands and has 1 to 33 bytes, and every answer seen is as long as its
frame (30_encoding R95, R98; 40_transport R110). -/
def State.WireClean (s : State) : Prop :=
  (∀ e ∈ s.trace, ∀ tx, e.sent = some tx →
    (∃ i, decodeFrame s.desc tx = .command i) ∧ 1 ≤ tx.length ∧ tx.length ≤ 33) ∧
  ∀ tx rx, Event.x tx rx ∈ s.trace → rx.length = tx.length

/-- LAST_STATUS and LS_VALID are what the trace says: the status byte of the most recent successful exchange, and
whether there was one (10_state R25, R26). -/
def State.StatusTrue (s : State) : Prop :=
  latestStatus s.trace = if s.lsValid then some s.lastStatus else none

/-- CE_OUT is the level of the most recent CE event, where there is one (10_state R27). -/
def State.LevelTrue (s : State) : Prop :=
  ∀ l, latestLevel s.trace = some l → s.ceOut = l

/-- SEQ between steps: at rest when IDLE, else DONE or (stalled) XCHG with at most three exchanges counted; HOLD is not
running (10_state R28, R29). -/
def State.SeqSound (s : State) : Prop :=
  (s.seq = Seq.rest ∨ ((s.seq.phase = .done ∨ s.seq.phase = .xchg) ∧ s.seq.k ≤ 3)) ∧ s.hold = 0

/-- The buffers hold DUMMY_BYTE at index XLEN and above, and XLEN is at most 33 (40_transport R112, R119). -/
def State.BuffersClean (s : State) : Prop :=
  s.txbuf = bufferOf s.outFrame ∧ s.rxbuf = bufferOf s.inFrame ∧ s.xlen.toNat ≤ 33

/-- RES carries a code, a tag and a length that the spec gives a meaning, and no event and no data with an error
(60_exceptions R231, R240; 30_encoding R89, R90). -/
def State.ResSound (s : State) : Prop :=
  s.res.err.toNat ≤ 6 ∧ s.res.event.toNat ≤ 3 ∧ s.res.len.toNat ≤ 32 ∧
    (s.res.err ≠ 0 → s.res.event = 0 ∧ s.res.len = 0) ∧
    (s.res.event ≠ 0 → s.res.event ≠ 1 → s.res.len = 0)

/-- A faulted machine presents the report of the fault: phase DONE and `ERR` = 6 (42_payload R154). -/
def State.FaultReported (s : State) : Prop :=
  s.halted = some .rxWidthFault → s.seq.phase = .done ∧ s.res.err = 6

end Sys2Proof.Machine
end

