-- ==== Sys2Proof/Certificates/Slice0/Obligations.lean ====
section
/-! DEFINITION. The statements for the provers. Each docstring names the rules of spec/ it formalises. A statement whose
clauses rest on a choice of the model or of the spec says so and names the log entry. -/

open Sys2Proof Sys2Proof.Machine

/-! ### Encoding -/

/-- 30_encoding R87, R88: a host request decodes to the operation it was written for, whatever bytes follow it. The
request format and the OP numbers are the spec's decision D1 (log 22). -/
def Obligations.HostRequestRoundTrip : Prop :=
  ∀ (d : DescTable) (i : Instr) (rest : List Byte), i.space = .host → wellFormed d i = true →
    decodeRequest (encode d i ++ rest) = .request i rest

/-- 30_encoding R81, R82, R83, R84: a wire frame decodes to the command it was written for. -/
def Obligations.WireFrameRoundTrip : Prop :=
  ∀ (d : DescTable) (i : Instr), i.space = .wire → wellFormed d i = true → decodeFrame d (encode d i) = .command i

/-- 30_encoding R81, R84: a byte sequence is the frame of at most one command, and only of a well-formed one. -/
def Obligations.WireFrameHasOneReading : Prop :=
  ∀ (d : DescTable) (bytes : List Byte) (i : Instr), decodeFrame d bytes = .command i →
    i.space = .wire ∧ wellFormed d i = true ∧ encode d i = bytes

/-- 30_encoding R95: the byte 0 values that are no command, and no others, are classed so. -/
def Obligations.OtherOpcodeBytesAreNoCommand : Prop :=
  ∀ (d : DescTable) (b : Byte) (rest : List Byte),
    decodeFrame d (b :: rest) = .notCommand b ↔
      (0x40 ≤ b.toNat ∧ b.toNat ≤ 0x5F) ∨ (0x62 ≤ b.toNat ∧ b.toNat ≤ 0x9F) ∨
        (0xA1 ≤ b.toNat ∧ b.toNat ≤ 0xE0) ∨ (0xE3 ≤ b.toNat ∧ b.toNat ≤ 0xFE)

/-- 30_encoding R81, R88: some words written out from the two tables (with DUMMY_BYTE = 0 and the default DESC, log 10,
log 12). -/
def Obligations.WordsOfTheSpecDecode : Prop :=
  decodeFrame Config.defaultDesc [0x0A, 0, 0, 0, 0, 0] = .command (.wireRdReg 10) ∧
  decodeFrame Config.defaultDesc [0x1F, 0] = .command (.wireRdReg 31) ∧
  decodeFrame Config.defaultDesc [0x3F, 0xAA] = .command (.wireWrReg 31 [0xAA]) ∧
  decodeFrame Config.defaultDesc [0x61, 0, 0, 0] = .command (.wireRdRxpl 3) ∧
  decodeFrame Config.defaultDesc [0xE2] = .command .wireFlushRx ∧
  decodeRequest [0x01, 0x10, 3, 1, 2, 3] = .request (.writeRegister 0x10 [1, 2, 3]) [] ∧
  decodeRequest [0x0D, 0, 0] = .request .processState []

/-- 30_encoding R87: the header bytes an operation has no use for are ignored, their data bytes are consumed all the
same, and the byte overload takes exactly one data byte whatever LEN says. The format is the spec's decision D1, D4
(log 22). -/
def Obligations.UnusedRequestFieldsAreIgnored : Prop :=
  ∀ (addr len b : Byte) (data rest : List Byte), data.length = len.toNat →
    decodeRequest (0x00 :: addr :: len :: (data ++ rest)) = .request (.readRegister addr) rest ∧
    decodeRequest (0x02 :: addr :: len :: b :: rest) = .request (.writeRegisterByte addr b) rest ∧
    decodeRequest (0x03 :: addr :: len :: (data ++ rest)) = .request .readRXPayloadWidth rest ∧
    decodeRequest (0x04 :: addr :: len :: (data ++ rest)) = .request .readRXPayload rest ∧
    decodeRequest (0x05 :: addr :: len :: (data ++ rest)) = .request (.writeTXPayload data) rest ∧
    decodeRequest (0x06 :: addr :: len :: (data ++ rest)) = .request .flushTX rest ∧
    decodeRequest (0x07 :: addr :: len :: (data ++ rest)) = .request .flushRX rest ∧
    decodeRequest (0x08 :: addr :: len :: (data ++ rest)) = .request .readState rest ∧
    decodeRequest (0x09 :: addr :: len :: (data ++ rest)) = .request .getLastState rest ∧
    decodeRequest (0x0A :: addr :: len :: (data ++ rest)) = .request .receive rest ∧
    decodeRequest (0x0B :: addr :: len :: (data ++ rest)) = .request .transmit rest ∧
    decodeRequest (0x0C :: addr :: len :: (data ++ rest)) = .request .deactivateCE rest ∧
    decodeRequest (0x0D :: addr :: len :: (data ++ rest)) = .request .processState rest

/-! ### The step -/

/-- 20_memory R65, R70: an idle block runs the request the host presents, its bytes taken from the port. -/
def Obligations.StepRunsDecodedRequest : Prop :=
  ∀ (s : State) (i : Instr) (rest : List Byte), s.Ready → s.frameIn = [] → decodeRequest s.hostIn = .request i rest →
    step s = exec i { s with hostIn := rest }

/-- 40_transport R110, the model's choice of log 16: an idle block that has been handed a command buffer runs it. -/
def Obligations.StepRunsPreparedFrame : Prop :=
  ∀ (s : State) (i : Instr), s.Ready → decodeFrame s.desc s.frameIn = .command i →
    step s = exec i { s with frameIn := [] }

/-- 30_encoding R95, the model's choice of log 19: bytes that are no frame of the block are refused by name, by a step
that is handed them and by a wire command with such operands. -/
def Obligations.NonFramesAreRefused : Prop :=
  (∀ (s : State) (b : Byte), s.Ready → decodeFrame s.desc s.frameIn = .notCommand b →
    step s = .refused (.notWireCommand b)) ∧
  (∀ s : State, s.Ready → s.frameIn ≠ [] → decodeFrame s.desc s.frameIn = .malformed →
    step s = .refused .malformedFrame) ∧
  ∀ (s : State) (i : Instr), s.halted = none → i.space = .wire → wellFormed s.desc i = false →
    exec i s = .refused .malformedFrame

/-- 30_encoding R97 (the spec's decision D2): a request whose OP is 0x0E or above ends with IllegalOperation; its data
bytes are consumed, and nothing but SEQ and RES changes. -/
def Obligations.UnknownOperationIsIllegal : Prop :=
  ∀ (s : State) (op addr len : Byte) (data rest : List Byte), s.Ready → s.frameIn = [] → 0x0D < op.toNat →
    data.length = len.toNat → s.hostIn = op :: addr :: len :: (data ++ rest) →
    ∃ t, step s = .next t ∧
      t = { s with hostIn := rest, seq := ⟨none, 0, .done⟩, res := t.res, draws := t.draws } ∧
      t.res.err = ErrKind.illegalOperation.code ∧ t.res.event = 0 ∧ t.res.len = 0 ∧
      (s.lsValid = true → t.res.status = s.lastStatus)

/-- 70_reset R261, log 13: an idle block whose port holds no whole request waits, unchanged. -/
def Obligations.IdleBlockWaitsForWholeRequest : Prop :=
  ∀ s : State, s.Ready → s.frameIn = [] → decodeRequest s.hostIn = .incomplete → step s = .next s

/-- 60_exceptions R240, 30_encoding R89, log 14: a response is put out byte-serial and the block is at rest. -/
def Obligations.ResponseIsTaken : Prop :=
  ∀ s : State, s.halted = none → s.seq.phase = .done →
    step s = .next
      { s with
        hostOut := s.hostOut ++
          (s.res.err :: s.res.status :: s.res.event :: s.res.pipe :: s.res.len ::
            s.res.data.toList.take s.res.len.toNat)
        seq := ⟨none, 0, .idle⟩ }

/-- 20_memory R65 (the spec's decision D29, log 21): an operation presented while the block is busy has no effect. -/
def Obligations.BusyBlockIgnoresOperation : Prop :=
  ∀ (s : State) (i : Instr), s.halted = none → s.seq.phase ≠ .idle → wellFormed s.desc i = true → exec i s = .next s

/-- 40_transport R117: an exchange that the link never completes leaves the block in phase XCHG, with nothing seen on the
wire and no result; from then on no number of steps changes anything and no operation is accepted. Any operation that ends
in phase XCHG, at whichever exchange, has produced no result. -/
def Obligations.StalledExchangeHoldsTheBlock : Prop :=
  (∀ (s : State) (i : Instr) (tx : List Byte) (more : List LinkAnswer), s.Ready → firstFrame s.desc i = some tx →
    s.link = .never :: more →
    exec i s = .next { s.afterStall tx more with seq := ⟨runningOp i, 0, .xchg⟩ }) ∧
  (∀ (s t : State) (i : Instr), s.Ready → exec i s = .next t → t.seq.phase = .xchg → t.res = s.res) ∧
  ∀ s : State, s.halted = none → s.seq.phase = .xchg →
    (∀ n, Host.Core.run Sys2Proof.core n s = .next s) ∧
    ∀ i, wellFormed s.desc i = true → exec i s = .next s

/-- 40_transport R116, 60_exceptions R235, R241: when the first exchange of an instruction fails, it ends with
TransportError: the frame is seen as failed, LAST_STATUS, LS_VALID and CE_OUT are as before, and no other exchange is made. -/
def Obligations.FirstExchangeFailureEndsInstruction : Prop :=
  ∀ (s : State) (i : Instr) (tx : List Byte) (more : List LinkAnswer), s.Ready → firstFrame s.desc i = some tx →
    s.link = .fail :: more →
    ∃ t, exec i s = .next t ∧
      t = { s.afterFailure tx more with seq := ⟨runningOp i, 0, .done⟩, res := t.res, draws := t.draws } ∧
      t.res.err = ErrKind.transport.code ∧ t.res.event = 0 ∧ t.res.len = 0 ∧
      (s.lsValid = true → t.res.status = s.lastStatus)

/-- 20_memory R64, 60_exceptions R230: an idle block answers a next state to every well-formed instruction, whatever the
link answers: it presents a response, or it is stalled in XCHG, an operation that never ends (40_transport R117, log 4), or,
for a wire command run by itself, it is at rest. That such a command ends at rest is the model's choice (log 16). -/
def Obligations.ReadyBlockRunsEveryInstruction : Prop :=
  ∀ (s : State) (i : Instr), s.Ready → wellFormed s.desc i = true →
    ∃ t, exec i s = .next t ∧
      (t.seq.phase = .done ∨ t.seq.phase = .xchg ∨ (i.space = .wire ∧ t.seq.phase = .idle))

/-- 60_exceptions R240, R241: whatever error ends a host operation, the response carries no event and no data, STATUS is
LAST_STATUS as it then stands, and CE_OUT is as it was. -/
def Obligations.ErrorLeavesLevelAndCarriesNoResult : Prop :=
  ∀ (s t : State) (i : Instr), s.Ready → i.space = .host → exec i s = .next t → t.seq.phase = .done →
    t.res.err ≠ 0 →
    t.ceOut = s.ceOut ∧ t.res.event = 0 ∧ t.res.len = 0 ∧ (t.lsValid = true → t.res.status = t.lastStatus)

/-! ### Register access -/

/-- 41_register R134, R135 (a) to (e): `readRegister` sends the address and DESC[a].size dummy bytes and returns exactly
the register's bytes as received; nothing else of the block changes but the transport's state, SEQ and RES. -/
def Obligations.ReadRegisterReturnsRegisterBytes : Prop :=
  ∀ (s : State) (address : Byte) (rx : List Byte) (more : List LinkAnswer), s.Ready → address.toNat ≤ 31 →
    s.link = .ok rx :: more → rx.length = 1 + s.desc.sizeOf (addressField address) →
    ∃ t, exec (.readRegister address) s = .next t ∧
      t = { s.afterExchange (address :: dummies (s.desc.sizeOf (addressField address))) rx more with
            seq := ⟨some .readRegister, 1, .done⟩, res := t.res, draws := t.draws } ∧
      t.res.Says 0 (rx.headD 0) 0 (rx.drop 1)

/-- 41_register R135 (f): nothing in the result of `readRegister` depends on LAST_STATUS before the call. -/
def Obligations.ReadRegisterIgnoresLastStatus : Prop :=
  ∀ (s : State) (address b : Byte) (v : Bool) (rx : List Byte) (more : List LinkAnswer), s.Ready →
    address.toNat ≤ 31 → s.link = .ok rx :: more → rx.length = 1 + s.desc.sizeOf (addressField address) →
    exec (.readRegister address) { s with lastStatus := b, lsValid := v } = exec (.readRegister address) s

/-- 41_register R130, R133, 60_exceptions R237: an address above 31 ends all three register operations with
ProtocolRangeError before any exchange, whatever the length, the low five bits or the descriptors; an address up to 31
never gives that error. -/
def Obligations.AddressAbove31IsRefused : Prop :=
  (∀ (s : State) (address byte : Byte) (bytes : List Byte) (op : HostOp) (i : Instr), s.Ready →
    31 < address.toNat →
    (i = .readRegister address ∧ op = .readRegister ∨ i = .writeRegister address bytes ∧ op = .writeRegister ∨
      i = .writeRegisterByte address byte ∧ op = .writeRegisterByte) →
    ∃ t, exec i s = .next t ∧
      t = { s with seq := ⟨some op, 0, .done⟩, res := t.res, draws := t.draws } ∧
      t.res.err = ErrKind.protocolRange.code ∧ t.res.event = 0 ∧ t.res.len = 0) ∧
  ∀ (s t : State) (address byte : Byte) (bytes : List Byte) (i : Instr), s.Ready → address.toNat ≤ 31 →
    (i = .readRegister address ∨ i = .writeRegister address bytes ∨ i = .writeRegisterByte address byte) →
    exec i s = .next t → t.seq.phase = .done → t.res.err ≠ ErrKind.protocolRange.code

/-- 41_register R136 to R140: `writeRegister` sends the write opcode and exactly the bytes given, whole, short (R138) or
none (R139), without padding; the byte overload sends its one byte. The Status returned is that of the write exchange. -/
def Obligations.WriteRegisterSendsBytesGiven : Prop :=
  (∀ (s : State) (address : Byte) (bytes rx : List Byte) (more : List LinkAnswer), s.Ready → address.toNat ≤ 31 →
    bytes.length ≤ s.desc.sizeOf (addressField address) → s.link = .ok rx :: more → rx.length = 1 + bytes.length →
    ∃ t, exec (.writeRegister address bytes) s = .next t ∧
      t = { s.afterExchange ((0x20 ||| address) :: bytes) rx more with
            seq := ⟨some .writeRegister, 1, .done⟩, res := t.res, draws := t.draws } ∧
      t.res.Says 0 (rx.headD 0) 0 []) ∧
  ∀ (s : State) (address byte : Byte) (rx : List Byte) (more : List LinkAnswer), s.Ready → address.toNat ≤ 31 →
    s.link = .ok rx :: more → rx.length = 2 →
    ∃ t, exec (.writeRegisterByte address byte) s = .next t ∧
      t = { s.afterExchange [0x20 ||| address, byte] rx more with
            seq := ⟨some .writeRegisterByte, 1, .done⟩, res := t.res, draws := t.draws } ∧
      t.res.Says 0 (rx.headD 0) 0 []

/-- 41_register R132: for an address in range, more bytes than the descriptor's size end `writeRegister` with
SizeMismatchError and no exchange, whatever the bytes; a sequence that is not longer never gives that error. -/
def Obligations.OverlongRegisterWriteIsRefused : Prop :=
  (∀ (s : State) (address : Byte) (bytes : List Byte), s.Ready → address.toNat ≤ 31 →
    s.desc.sizeOf (addressField address) < bytes.length →
    ∃ t, exec (.writeRegister address bytes) s = .next t ∧
      t = { s with seq := ⟨some .writeRegister, 0, .done⟩, res := t.res, draws := t.draws } ∧
      t.res.err = ErrKind.sizeMismatch.code ∧ t.res.event = 0 ∧ t.res.len = 0) ∧
  ∀ (s t : State) (address : Byte) (bytes : List Byte), s.Ready → address.toNat ≤ 31 →
    bytes.length ≤ s.desc.sizeOf (addressField address) → exec (.writeRegister address bytes) s = .next t →
    t.seq.phase = .done → t.res.err ≠ ErrKind.sizeMismatch.code

/-! ### Payload -/

/-- 42_payload R150, R151: the width byte is returned as received, any of the 256 values. -/
def Obligations.WidthProbeReturnsByteAsReceived : Prop :=
  ∀ (s : State) (st w : Byte) (more : List LinkAnswer), s.Ready → s.link = .ok [st, w] :: more →
    ∃ t, exec .readRXPayloadWidth s = .next t ∧
      t = { s.afterExchange [0x60, Config.dummyByte] [st, w] more with
            seq := ⟨some .readRXPayloadWidth, 1, .done⟩, res := t.res, draws := t.draws } ∧
      t.res.Says 0 st 0 [w]

/-- 42_payload R153: when the width probe returns 0, `readRXPayload` returns the empty sequence as a success after exactly
one exchange. -/
def Obligations.EmptyFifoReadMakesOneExchange : Prop :=
  ∀ (s : State) (st : Byte) (more : List LinkAnswer), s.Ready → s.link = .ok [st, 0] :: more →
    ∃ t, exec .readRXPayload s = .next t ∧
      t = { s.afterExchange [0x60, Config.dummyByte] [st, 0] more with
            seq := ⟨some .readRXPayload, 1, .done⟩, res := t.res, draws := t.draws } ∧
      t.res.Says 0 st 0 []

/-- 42_payload R152: with a width of 1 to 32, `readRXPayload` probes the width, reads that many bytes and returns them;
LAST_STATUS ends as the status byte of the payload read. -/
def Obligations.ReadRXPayloadReturnsPayload : Prop :=
  ∀ (s : State) (st w : Byte) (rx : List Byte) (more : List LinkAnswer), s.Ready →
    s.link = .ok [st, w] :: .ok rx :: more → 1 ≤ w.toNat → w.toNat ≤ 32 → rx.length = 1 + w.toNat →
    ∃ t, exec .readRXPayload s = .next t ∧
      t = { (s.afterExchange [0x60, Config.dummyByte] [st, w] (.ok rx :: more)).afterExchange
              (0x61 :: dummies w.toNat) rx more with
            seq := ⟨some .readRXPayload, 2, .done⟩, res := t.res, draws := t.draws } ∧
      t.res.Says 0 (rx.headD 0) 0 (rx.drop 1)

/-- 42_payload R154, 45_event R215, 60_exceptions R236, R243 (the spec's decision D16; the model's form of it is log 5): a
width above 32 ends `readRXPayload` and the Received arm of `processState` without a payload exchange, reported as
ERR = 6; the machine is faulted for good. -/
def Obligations.WidthAbove32FaultsTheMachine : Prop :=
  (∀ (s : State) (st w : Byte) (more : List LinkAnswer), s.Ready → s.link = .ok [st, w] :: more → 32 < w.toNat →
    ∃ t, exec .readRXPayload s = .next t ∧
      t = { s.afterExchange [0x60, Config.dummyByte] [st, w] more with
            seq := ⟨some .readRXPayload, 1, .done⟩, res := t.res, draws := t.draws, halted := some .rxWidthFault } ∧
      t.res.Says 6 st 0 [] ∧ step t = .fault .rxWidthFault) ∧
  ∀ (s : State) (st st' w : Byte) (more : List LinkAnswer), s.Ready → s.link = .ok [st] :: .ok [st', w] :: more →
    st.getLsbD 6 = true → 32 < w.toNat →
    ∃ t, exec .processState s = .next t ∧
      t = { (s.afterExchange [0xFF] [st] (.ok [st', w] :: more)).afterExchange
              [0x60, Config.dummyByte] [st', w] more with
            seq := ⟨some .processState, 2, .done⟩, res := t.res, draws := t.draws, halted := some .rxWidthFault } ∧
      t.res.Says 6 st' 0 [] ∧ step t = .fault .rxWidthFault

/-- 42_payload R160 (the spec's decision D22): when the payload read fails, no payload is returned and LAST_STATUS is the
status byte of the width probe. -/
def Obligations.PayloadReadFailureKeepsProbeStatus : Prop :=
  ∀ (s : State) (st w : Byte) (more : List LinkAnswer), s.Ready → s.link = .ok [st, w] :: .fail :: more →
    1 ≤ w.toNat → w.toNat ≤ 32 →
    ∃ t, exec .readRXPayload s = .next t ∧
      t = { (s.afterExchange [0x60, Config.dummyByte] [st, w] (.fail :: more)).afterFailure
              (0x61 :: dummies w.toNat) more with
            seq := ⟨some .readRXPayload, 1, .done⟩, res := t.res, draws := t.draws } ∧
      t.res.Says ErrKind.transport.code st 0 []

/-- 42_payload R156: `writeTXPayload` with 1 to 32 bytes sends them after the opcode and returns the Status of that
exchange. -/
def Obligations.WriteTXPayloadSendsPayload : Prop :=
  ∀ (s : State) (payload rx : List Byte) (more : List LinkAnswer), s.Ready → 1 ≤ payload.length →
    payload.length ≤ 32 → s.link = .ok rx :: more → rx.length = 1 + payload.length →
    ∃ t, exec (.writeTXPayload payload) s = .next t ∧
      t = { s.afterExchange (0xA0 :: payload) rx more with
            seq := ⟨some .writeTXPayload, 1, .done⟩, res := t.res, draws := t.draws } ∧
      t.res.Says 0 (rx.headD 0) 0 []

/-- 42_payload R155: an empty payload and one of more than 32 bytes end `writeTXPayload` with PayloadLengthError; neither
the buffers nor LAST_STATUS nor CE_OUT is touched. A payload of 1 to 32 bytes never gives that error. -/
def Obligations.PayloadLengthIsChecked : Prop :=
  (∀ (s : State) (payload : List Byte), s.Ready → payload.length = 0 ∨ 32 < payload.length →
    ∃ t, exec (.writeTXPayload payload) s = .next t ∧
      t = { s with seq := ⟨some .writeTXPayload, 0, .done⟩, res := t.res, draws := t.draws } ∧
      t.res.err = ErrKind.payloadLength.code ∧ t.res.event = 0 ∧ t.res.len = 0) ∧
  ∀ (s t : State) (payload : List Byte), s.Ready → 1 ≤ payload.length → payload.length ≤ 32 →
    exec (.writeTXPayload payload) s = .next t → t.seq.phase = .done → t.res.err ≠ ErrKind.payloadLength.code

/-- 42_payload R157, R158: each flush is one single-byte exchange and returns the Status of that exchange. -/
def Obligations.FlushesAreSingleByteExchanges : Prop :=
  ∀ (s : State) (st : Byte) (more : List LinkAnswer), s.Ready → s.link = .ok [st] :: more →
    (∃ t, exec .flushTX s = .next t ∧
      t = { s.afterExchange [0xE1] [st] more with
            seq := ⟨some .flushTX, 1, .done⟩, res := t.res, draws := t.draws } ∧
      t.res.Says 0 st 0 []) ∧
    ∃ t, exec .flushRX s = .next t ∧
      t = { s.afterExchange [0xE2] [st] more with
            seq := ⟨some .flushRX, 1, .done⟩, res := t.res, draws := t.draws } ∧
      t.res.Says 0 st 0 []

/-! ### Status -/

/-- 43_status R170: `readState` is one NOP exchange and returns its status byte. -/
def Obligations.ReadStateSamplesStatus : Prop :=
  ∀ (s : State) (st : Byte) (more : List LinkAnswer), s.Ready → s.link = .ok [st] :: more →
    ∃ t, exec .readState s = .next t ∧
      t = { s.afterExchange [0xFF] [st] more with
            seq := ⟨some .readState, 1, .done⟩, res := t.res, draws := t.draws } ∧
      t.res.Says 0 st 0 []

/-- 43_status R172, R173: `getLastState` makes no exchange and writes nothing but SEQ and RES; its STATUS is LAST_STATUS
once an exchange has succeeded. Before that STATUS is a free value (the spec's decision D9, log 6) and the statement says
nothing of it. -/
def Obligations.GetLastStateMakesNoExchange : Prop :=
  ∀ s : State, s.Ready →
    ∃ t, exec .getLastState s = .next t ∧
      t = { s with seq := ⟨some .getLastState, 0, .done⟩, res := t.res, draws := t.draws } ∧
      t.res.err = 0 ∧ t.res.event = 0 ∧ t.res.len = 0 ∧ (s.lsValid = true → t.res.status = s.lastStatus)

/-- 43_status R174 to R178: each decoder is the field of its rule, with the examples the rules give. -/
def Obligations.DecodersReadTheirBits : Prop :=
  (∀ s : Byte, txFull s = s.getLsbD 0 ∧ (rxPipeNumber s).toNat = s.toNat / 2 % 8 ∧ maxRT s = s.getLsbD 4 ∧
    txDataSent s = s.getLsbD 5 ∧ rxDataReady s = s.getLsbD 6) ∧
  txFull 0x63 = true ∧ txFull 0x0E = false ∧
  rxPipeNumber 0x63 = 1 ∧ rxPipeNumber 0x0E = 7 ∧ rxPipeNumber 0x4C = 6 ∧
  maxRT 0x1E = true ∧ maxRT 0x63 = false ∧
  txDataSent 0x2E = true ∧ txDataSent 0x43 = false ∧ txDataSent 0x63 = true ∧
  rxDataReady 0x63 = true ∧ rxDataReady 0x0E = false

/-! ### Mode transitions and CE -/

/-- 44_mode R194, R196, R191, R201: `receive` reads CONFIG, writes it back with bits 1:0 set, and then asserts CE; the
response's STATUS is that of the write. -/
def Obligations.ReceiveSetsBothBitsThenAssertsCE : Prop :=
  ∀ (s : State) (rx rx' : List Byte) (more : List LinkAnswer), s.Ready → s.link = .ok rx :: .ok rx' :: more →
    rx.length = 1 + s.desc.sizeOf 0 → rx'.length = 2 →
    ∃ t, exec .receive s = .next t ∧
      t = { (s.afterExchange (0x00 :: dummies (s.desc.sizeOf 0)) rx (.ok rx' :: more)).afterExchange
              [0x20, (rx.drop 1).headD 0 ||| 0x03] rx' more with
            ceOut := true
            hold := 0
            trace := s.trace ++ [.x (0x00 :: dummies (s.desc.sizeOf 0)) rx,
              .x [0x20, (rx.drop 1).headD 0 ||| 0x03] rx', .ce true]
            seq := ⟨some .receive, 2, .done⟩, res := t.res, draws := t.draws } ∧
      t.res.Says 0 (rx'.headD 0) 0 []

/-- 44_mode R195, R196, R191, R201: `transmit` reads CONFIG, writes it back with bits 1:0 = `10`, and then asserts CE. That
PWR_UP is bit 1 is the spec's decision D6 (log 11). -/
def Obligations.TransmitSetsPowerUpOnlyThenAssertsCE : Prop :=
  ∀ (s : State) (rx rx' : List Byte) (more : List LinkAnswer), s.Ready → s.link = .ok rx :: .ok rx' :: more →
    rx.length = 1 + s.desc.sizeOf 0 → rx'.length = 2 →
    ∃ t, exec .transmit s = .next t ∧
      t = { (s.afterExchange (0x00 :: dummies (s.desc.sizeOf 0)) rx (.ok rx' :: more)).afterExchange
              [0x20, ((rx.drop 1).headD 0 &&& 0xFC) ||| 0x02] rx' more with
            ceOut := true
            hold := 0
            trace := s.trace ++ [.x (0x00 :: dummies (s.desc.sizeOf 0)) rx,
              .x [0x20, ((rx.drop 1).headD 0 &&& 0xFC) ||| 0x02] rx', .ce true]
            seq := ⟨some .transmit, 2, .done⟩, res := t.res, draws := t.draws } ∧
      t.res.Says 0 (rx'.headD 0) 0 []

/-- 44_mode R196, 10_state R38: bits 7:2 of CONFIG pass through both computations, and the mode that results under an
asserted CE is Receiving or Transmitting; Idle when CE is deasserted, and when PWR_UP is clear. Which bits PWR_UP and
PRIM_RX are is the spec's decision D6 (log 11). -/
def Obligations.ConfigComputationsGiveTheirMode : Prop :=
  ∀ c : Byte, (receiveConfig c).extractLsb' 2 6 = c.extractLsb' 2 6 ∧
    (transmitConfig c).extractLsb' 2 6 = c.extractLsb' 2 6 ∧
    sessionMode true (receiveConfig c) = .receiving ∧ sessionMode true (transmitConfig c) = .transmitting ∧
    sessionMode false c = .idle ∧ (c.getLsbD 1 = false → ∀ ce, sessionMode ce c = .idle)

/-- 44_mode R199 (the spec's decision D22): when the CONFIG write of `receive` or `transmit` fails, CE is not asserted,
and LAST_STATUS is the status byte of the read. -/
def Obligations.ConfigWriteFailureLeavesCE : Prop :=
  ∀ (s : State) (rx : List Byte) (more : List LinkAnswer) (i : Instr) (op : HostOp) (f : Byte → Byte), s.Ready →
    s.link = .ok rx :: .fail :: more → rx.length = 1 + s.desc.sizeOf 0 →
    (i = .receive ∧ op = .receive ∧ f = receiveConfig ∨ i = .transmit ∧ op = .transmit ∧ f = transmitConfig) →
    ∃ t, exec i s = .next t ∧
      t = { (s.afterExchange (0x00 :: dummies (s.desc.sizeOf 0)) rx (.fail :: more)).afterFailure
              [0x20, f ((rx.drop 1).headD 0)] more with
            seq := ⟨some op, 1, .done⟩, res := t.res, draws := t.draws } ∧
      t.res.Says ErrKind.transport.code (rx.headD 0) 0 []

/-- 44_mode R198, R192: `deactivateCE` lowers CE, is seen as CE(0), and makes no exchange: LAST_STATUS and the buffers are
as before. -/
def Obligations.DeactivateCELowersCE : Prop :=
  ∀ s : State, s.Ready →
    ∃ t, exec .deactivateCE s = .next t ∧
      t = { s with
            ceOut := false
            trace := s.trace ++ [.ce false]
            seq := ⟨some .deactivateCE, 0, .done⟩, res := t.res, draws := t.draws } ∧
      t.res.err = 0 ∧ t.res.event = 0 ∧ t.res.len = 0 ∧ (s.lsValid = true → t.res.status = s.lastStatus)

/-- 44_mode R200: `receive` or `transmit` followed by `getLastState` with no exchange between returns the Status of the
CONFIG write, and the trace gains nothing. -/
def Obligations.LastStateAfterModeChangeIsWriteStatus : Prop :=
  ∀ (s : State) (rx rx' : List Byte) (more : List LinkAnswer) (i : Instr), s.Ready →
    s.link = .ok rx :: .ok rx' :: more → rx.length = 1 + s.desc.sizeOf 0 → rx'.length = 2 →
    (i = .receive ∨ i = .transmit) →
    ∃ t u v, exec i s = .next t ∧ step t = .next u ∧ exec .getLastState u = .next v ∧
      v.res.status = rx'.headD 0 ∧ v.trace = t.trace

/-! ### Event dispatch -/

/-- 45_event R212: the first of RX_DR, TX_DS, MAX_RT that is 1 in the status byte of the first exchange decides the event
reported, whatever the later exchanges bring and whatever the other bits are. -/
def Obligations.PollPriorityIsFixed : Prop :=
  ∀ (s t : State) (st : Byte) (more : List LinkAnswer), s.Ready → s.link = .ok [st] :: more →
    exec .processState s = .next t → t.seq.phase = .done → t.res.err = 0 →
    t.res.event =
      if st.getLsbD 6 = true then 1 else if st.getLsbD 5 = true then 2 else if st.getLsbD 4 = true then 3 else 0

/-- 45_event R214: with RX_DR clear a poll makes one exchange and answers Sent, RetransmitLimitExceeded or Idle; nothing is
delivered, flushed or deasserted, and LAST_STATUS is the byte that was sampled. -/
def Obligations.PollWithoutPacketMakesOneExchange : Prop :=
  ∀ (s : State) (st : Byte) (more : List LinkAnswer), s.Ready → s.link = .ok [st] :: more → st.getLsbD 6 = false →
    ∃ t, exec .processState s = .next t ∧
      t = { s.afterExchange [0xFF] [st] more with
            seq := ⟨some .processState, 1, .done⟩, res := t.res, draws := t.draws } ∧
      t.res.Says 0 st (if st.getLsbD 5 = true then 2 else if st.getLsbD 4 = true then 3 else 0) []

/-- 45_event R213 (the pipe of the first sample is the spec's decision D28): with RX_DR set a poll probes the width and
delivers the payload with the pipe number of the first sample, 6 and 7 included; a width of 0 still answers Received, with
the empty payload, after two exchanges. -/
def Obligations.PollDeliversPacketWithFirstPipe : Prop :=
  (∀ (s : State) (st st' w : Byte) (rx : List Byte) (more : List LinkAnswer), s.Ready →
    s.link = .ok [st] :: .ok [st', w] :: .ok rx :: more → st.getLsbD 6 = true → 1 ≤ w.toNat → w.toNat ≤ 32 →
    rx.length = 1 + w.toNat →
    ∃ t, exec .processState s = .next t ∧
      t = { ((s.afterExchange [0xFF] [st] (.ok [st', w] :: .ok rx :: more)).afterExchange
              [0x60, Config.dummyByte] [st', w] (.ok rx :: more)).afterExchange
              (0x61 :: dummies w.toNat) rx more with
            seq := ⟨some .processState, 3, .done⟩, res := t.res, draws := t.draws } ∧
      t.res.Says 0 (rx.headD 0) 1 (rx.drop 1) ∧ t.res.pipe.toNat = st.toNat / 2 % 8) ∧
  ∀ (s : State) (st st' : Byte) (more : List LinkAnswer), s.Ready → s.link = .ok [st] :: .ok [st', 0] :: more →
    st.getLsbD 6 = true →
    ∃ t, exec .processState s = .next t ∧
      t = { (s.afterExchange [0xFF] [st] (.ok [st', 0] :: more)).afterExchange
              [0x60, Config.dummyByte] [st', 0] more with
            seq := ⟨some .processState, 2, .done⟩, res := t.res, draws := t.draws } ∧
      t.res.Says 0 st' 1 [] ∧ t.res.pipe.toNat = st.toNat / 2 % 8

/-- 45_event R215 (the spec's decision D22): when an exchange of the Received arm fails, no event is reported and
LAST_STATUS is the status byte of the last exchange that succeeded. -/
def Obligations.PollFailureReportsNoEvent : Prop :=
  (∀ (s : State) (st : Byte) (more : List LinkAnswer), s.Ready → s.link = .ok [st] :: .fail :: more →
    st.getLsbD 6 = true →
    ∃ t, exec .processState s = .next t ∧
      t = { (s.afterExchange [0xFF] [st] (.fail :: more)).afterFailure [0x60, Config.dummyByte] more with
            seq := ⟨some .processState, 1, .done⟩, res := t.res, draws := t.draws } ∧
      t.res.Says ErrKind.transport.code st 0 []) ∧
  ∀ (s : State) (st st' w : Byte) (more : List LinkAnswer), s.Ready →
    s.link = .ok [st] :: .ok [st', w] :: .fail :: more → st.getLsbD 6 = true → 1 ≤ w.toNat → w.toNat ≤ 32 →
    ∃ t, exec .processState s = .next t ∧
      t = { ((s.afterExchange [0xFF] [st] (.ok [st', w] :: .fail :: more)).afterExchange
              [0x60, Config.dummyByte] [st', w] (.fail :: more)).afterFailure (0x61 :: dummies w.toNat) more with
            seq := ⟨some .processState, 2, .done⟩, res := t.res, draws := t.draws } ∧
      t.res.Says ErrKind.transport.code st' 0 []

/-! ### Wire commands -/

/-- 40_transport R111, 30_encoding R81, R84, R85: a wire command is one exchange of its frame; the answer stands in RXBUF,
the status byte is latched, RES and CE_OUT are untouched. That the block is at rest afterwards is the model's choice
(log 16). -/
def Obligations.WireCommandIsOneExchange : Prop :=
  ∀ (s : State) (i : Instr) (tx rx : List Byte) (more : List LinkAnswer), i.space = .wire → s.Ready →
    firstFrame s.desc i = some tx → s.link = .ok rx :: more → rx.length = tx.length →
    ∃ t, exec i s = .next t ∧
      t = { s.afterExchange tx rx more with seq := ⟨none, 0, .idle⟩, draws := t.draws } ∧ t.inFrame = rx

/-! ### What every step keeps -/

/-- 30_encoding R95, R98, 40_transport R110: no step puts on the wire anything but frames of the 8 commands of 1 to 33
bytes, each answered by as many bytes. -/
def Obligations.StepKeepsWireClean : Prop :=
  ∀ s t : State, s.WireClean → step s = .next t → t.WireClean

/-- 40_transport R114, 10_state R25, R26: LAST_STATUS is always the status byte of the most recent successful exchange on
the trace, and LS_VALID says whether there was one. -/
def Obligations.StepKeepsStatusTrue : Prop :=
  ∀ s t : State, s.StatusTrue → step s = .next t → t.StatusTrue

/-- 10_state R27, 44_mode R191, R192: CE_OUT is always the level of the most recent CE event on the trace. -/
def Obligations.StepKeepsLevelTrue : Prop :=
  ∀ s t : State, s.LevelTrue → step s = .next t → t.LevelTrue

/-- 10_state R28, R29, 60_exceptions R249: between steps SEQ is at rest, DONE or stalled in XCHG, with at most three
exchanges counted, and HOLD is not running. That only these phases are seen is the model's grain (log 1, log 9). -/
def Obligations.StepKeepsSeqSound : Prop :=
  ∀ s t : State, s.SeqSound → step s = .next t → t.SeqSound

/-- 40_transport R112, R119: the buffers hold nothing beyond XLEN but the re-initialised value, and XLEN is at most 33. The
value is the spec's decision D5 (log 10). -/
def Obligations.StepKeepsBuffersClean : Prop :=
  ∀ s t : State, s.BuffersClean → step s = .next t → t.BuffersClean

/-- 60_exceptions R231, R240, 30_encoding R89, R90: RES never carries a code, a tag or a length without a meaning, nor an
event or data with an error. The numbers are the spec's decision D3 (log 22). -/
def Obligations.StepKeepsResSound : Prop :=
  ∀ s t : State, s.ResSound → step s = .next t → t.ResSound

/-- 00_scope R11, 60_exceptions R243, log 5: a machine is faulted only with the report of the fault presented, and a
faulted machine stops: no step and no instruction goes on from it. -/
def Obligations.FaultedMachineStops : Prop :=
  (∀ s t : State, s.FaultReported → step s = .next t → t.FaultReported) ∧
  ∀ (s : State) (f : Fault) (i : Instr), s.halted = some f → step s = .fault f ∧ exec i s = .fault f

/-- The reset state meets every predicate that every step keeps (70_reset R261; RES and the buffers at reset are the
model's choice, log 7). -/
def Obligations.ResetMeetsEveryPredicate : Prop :=
  State.reset.WireClean ∧ State.reset.StatusTrue ∧ State.reset.LevelTrue ∧ State.reset.SeqSound ∧
    State.reset.BuffersClean ∧ State.reset.ResSound ∧ State.reset.FaultReported

/-- 70_reset R261, R262: the values of the spec's reset table. They are the spec's own decisions, not the source's: LS_VALID
is D9, SEQ (and BUSY) and HOLD are D12, the empty trace D13. That DESC is the default table rests on D14 and on general
knowledge (G1): log 12, PRESUMED. -/
def Obligations.ResetLeavesTheSpecsValues : Prop :=
  State.reset.desc = Config.defaultDesc ∧ State.reset.lsValid = false ∧ State.reset.seq = ⟨none, 0, .idle⟩ ∧
    State.reset.busy = false ∧ State.reset.hold = 0 ∧ State.reset.trace = []

/-- 10_state R20, R21 (the default table is the spec's decision D14 and its general knowledge G1, log 12): size 5 at 0x0A,
0x0B and 0x10 and 1 elsewhere; the six reserved entries; CONFIG at 0. -/
def Obligations.DefaultTableHasTheSpecsEntries : Prop :=
  (∀ a : BitVec 5, Config.defaultDesc.sizeOf a = if a = 0x0A ∨ a = 0x0B ∨ a = 0x10 then 5 else 1) ∧
  (∀ a : BitVec 5, Config.defaultDesc[a.toNat].name = .na ↔
    a = 0x18 ∨ a = 0x19 ∨ a = 0x1A ∨ a = 0x1B ∨ a = 0x1E ∨ a = 0x1F) ∧
  Config.defaultDesc[0].name = .config

/-- 20_memory R64, 30_encoding R88: a step only adds to the trace, at most three frames and at most one CE event. -/
def Obligations.StepAddsAtMostThreeExchanges : Prop :=
  ∀ s t : State, step s = .next t →
    ∃ events, t.trace = s.trace ++ events ∧ (events.filterMap Event.sent).length ≤ 3 ∧
      (events.filterMap Event.level).length ≤ 1

/-- 10_state R20, 20_memory R72: no step writes the descriptor table, and LS_VALID never returns to 0. -/
def Obligations.TableAndValidityPersist : Prop :=
  ∀ s t : State, step s = .next t → t.desc = s.desc ∧ (s.lsValid = true → t.lsValid = true)

/-- 10_state R20: no rule reads a descriptor's mask or name: two tables with the same sizes give the same run of every
instruction. -/
def Obligations.MaskAndNameAreNeverRead : Prop :=
  ∀ (s t : State) (d : DescTable) (i : Instr), (∀ a, d.sizeOf a = s.desc.sizeOf a) → exec i s = .next t →
    exec i { s with desc := d } = .next { t with desc := d }

/-- 10_state R27: CE_OUT is raised by `receive` and `transmit` and lowered by `deactivateCE`, and by nothing else. -/
def Obligations.OnlyModeOperationsMoveCE : Prop :=
  ∀ (s t : State) (i : Instr), exec i s = .next t → t.ceOut ≠ s.ceOut →
    (t.ceOut = true ∧ (i = .receive ∨ i = .transmit)) ∨ (t.ceOut = false ∧ i = .deactivateCE)
end

