-- ==== Sys2Proof/Laws/State.lean ====
section
/-! SUPPORT. What each named update of the state leaves in each field: one lemma per field per update, so that no later
proof unfolds a record update. -/

namespace Sys2Proof.Machine

@[simp] theorem State.setSeq_desc (s : State) (q : Seq) : (s.setSeq q).desc = s.desc := rfl
@[simp] theorem State.setSeq_txbuf (s : State) (q : Seq) : (s.setSeq q).txbuf = s.txbuf := rfl
@[simp] theorem State.setSeq_rxbuf (s : State) (q : Seq) : (s.setSeq q).rxbuf = s.rxbuf := rfl
@[simp] theorem State.setSeq_xlen (s : State) (q : Seq) : (s.setSeq q).xlen = s.xlen := rfl
@[simp] theorem State.setSeq_lastStatus (s : State) (q : Seq) : (s.setSeq q).lastStatus = s.lastStatus := rfl
@[simp] theorem State.setSeq_lsValid (s : State) (q : Seq) : (s.setSeq q).lsValid = s.lsValid := rfl
@[simp] theorem State.setSeq_ceOut (s : State) (q : Seq) : (s.setSeq q).ceOut = s.ceOut := rfl
@[simp] theorem State.setSeq_seq (s : State) (q : Seq) : (s.setSeq q).seq = q := rfl
@[simp] theorem State.setSeq_hold (s : State) (q : Seq) : (s.setSeq q).hold = s.hold := rfl
@[simp] theorem State.setSeq_res (s : State) (q : Seq) : (s.setSeq q).res = s.res := rfl
@[simp] theorem State.setSeq_trace (s : State) (q : Seq) : (s.setSeq q).trace = s.trace := rfl
@[simp] theorem State.setSeq_link (s : State) (q : Seq) : (s.setSeq q).link = s.link := rfl
@[simp] theorem State.setSeq_hostIn (s : State) (q : Seq) : (s.setSeq q).hostIn = s.hostIn := rfl
@[simp] theorem State.setSeq_hostOut (s : State) (q : Seq) : (s.setSeq q).hostOut = s.hostOut := rfl
@[simp] theorem State.setSeq_frameIn (s : State) (q : Seq) : (s.setSeq q).frameIn = s.frameIn := rfl
@[simp] theorem State.setSeq_draws (s : State) (q : Seq) : (s.setSeq q).draws = s.draws := rfl
@[simp] theorem State.setSeq_halted (s : State) (q : Seq) : (s.setSeq q).halted = s.halted := rfl

@[simp] theorem State.setPhase_desc (s : State) (p : Phase) : (s.setPhase p).desc = s.desc := rfl
@[simp] theorem State.setPhase_txbuf (s : State) (p : Phase) : (s.setPhase p).txbuf = s.txbuf := rfl
@[simp] theorem State.setPhase_rxbuf (s : State) (p : Phase) : (s.setPhase p).rxbuf = s.rxbuf := rfl
@[simp] theorem State.setPhase_xlen (s : State) (p : Phase) : (s.setPhase p).xlen = s.xlen := rfl
@[simp] theorem State.setPhase_lastStatus (s : State) (p : Phase) : (s.setPhase p).lastStatus = s.lastStatus := rfl
@[simp] theorem State.setPhase_lsValid (s : State) (p : Phase) : (s.setPhase p).lsValid = s.lsValid := rfl
@[simp] theorem State.setPhase_ceOut (s : State) (p : Phase) : (s.setPhase p).ceOut = s.ceOut := rfl
@[simp] theorem State.setPhase_seq (s : State) (p : Phase) : (s.setPhase p).seq = ⟨s.seq.op, s.seq.k, p⟩ := rfl
@[simp] theorem State.setPhase_hold (s : State) (p : Phase) : (s.setPhase p).hold = s.hold := rfl
@[simp] theorem State.setPhase_res (s : State) (p : Phase) : (s.setPhase p).res = s.res := rfl
@[simp] theorem State.setPhase_trace (s : State) (p : Phase) : (s.setPhase p).trace = s.trace := rfl
@[simp] theorem State.setPhase_link (s : State) (p : Phase) : (s.setPhase p).link = s.link := rfl
@[simp] theorem State.setPhase_hostIn (s : State) (p : Phase) : (s.setPhase p).hostIn = s.hostIn := rfl
@[simp] theorem State.setPhase_hostOut (s : State) (p : Phase) : (s.setPhase p).hostOut = s.hostOut := rfl
@[simp] theorem State.setPhase_frameIn (s : State) (p : Phase) : (s.setPhase p).frameIn = s.frameIn := rfl
@[simp] theorem State.setPhase_draws (s : State) (p : Phase) : (s.setPhase p).draws = s.draws := rfl
@[simp] theorem State.setPhase_halted (s : State) (p : Phase) : (s.setPhase p).halted = s.halted := rfl

@[simp] theorem State.countExchange_desc (s : State) : (s.countExchange).desc = s.desc := rfl
@[simp] theorem State.countExchange_txbuf (s : State) : (s.countExchange).txbuf = s.txbuf := rfl
@[simp] theorem State.countExchange_rxbuf (s : State) : (s.countExchange).rxbuf = s.rxbuf := rfl
@[simp] theorem State.countExchange_xlen (s : State) : (s.countExchange).xlen = s.xlen := rfl
@[simp] theorem State.countExchange_lastStatus (s : State) : (s.countExchange).lastStatus = s.lastStatus := rfl
@[simp] theorem State.countExchange_lsValid (s : State) : (s.countExchange).lsValid = s.lsValid := rfl
@[simp] theorem State.countExchange_ceOut (s : State) : (s.countExchange).ceOut = s.ceOut := rfl
@[simp] theorem State.countExchange_seq (s : State) : (s.countExchange).seq = ⟨s.seq.op, s.seq.k + 1, s.seq.phase⟩ := rfl
@[simp] theorem State.countExchange_hold (s : State) : (s.countExchange).hold = s.hold := rfl
@[simp] theorem State.countExchange_res (s : State) : (s.countExchange).res = s.res := rfl
@[simp] theorem State.countExchange_trace (s : State) : (s.countExchange).trace = s.trace := rfl
@[simp] theorem State.countExchange_link (s : State) : (s.countExchange).link = s.link := rfl
@[simp] theorem State.countExchange_hostIn (s : State) : (s.countExchange).hostIn = s.hostIn := rfl
@[simp] theorem State.countExchange_hostOut (s : State) : (s.countExchange).hostOut = s.hostOut := rfl
@[simp] theorem State.countExchange_frameIn (s : State) : (s.countExchange).frameIn = s.frameIn := rfl
@[simp] theorem State.countExchange_draws (s : State) : (s.countExchange).draws = s.draws := rfl
@[simp] theorem State.countExchange_halted (s : State) : (s.countExchange).halted = s.halted := rfl

@[simp] theorem State.buildFrame_desc (s : State) (tx : List Byte) : (s.buildFrame tx).desc = s.desc := rfl
@[simp] theorem State.buildFrame_txbuf (s : State) (tx : List Byte) : (s.buildFrame tx).txbuf = bufferOf tx := rfl
@[simp] theorem State.buildFrame_rxbuf (s : State) (tx : List Byte) : (s.buildFrame tx).rxbuf = bufferOf [] := rfl
@[simp] theorem State.buildFrame_xlen (s : State) (tx : List Byte) : (s.buildFrame tx).xlen = BitVec.ofNat 7 tx.length := rfl
@[simp] theorem State.buildFrame_lastStatus (s : State) (tx : List Byte) : (s.buildFrame tx).lastStatus = s.lastStatus := rfl
@[simp] theorem State.buildFrame_lsValid (s : State) (tx : List Byte) : (s.buildFrame tx).lsValid = s.lsValid := rfl
@[simp] theorem State.buildFrame_ceOut (s : State) (tx : List Byte) : (s.buildFrame tx).ceOut = s.ceOut := rfl
@[simp] theorem State.buildFrame_seq (s : State) (tx : List Byte) : (s.buildFrame tx).seq = s.seq := rfl
@[simp] theorem State.buildFrame_hold (s : State) (tx : List Byte) : (s.buildFrame tx).hold = s.hold := rfl
@[simp] theorem State.buildFrame_res (s : State) (tx : List Byte) : (s.buildFrame tx).res = s.res := rfl
@[simp] theorem State.buildFrame_trace (s : State) (tx : List Byte) : (s.buildFrame tx).trace = s.trace := rfl
@[simp] theorem State.buildFrame_link (s : State) (tx : List Byte) : (s.buildFrame tx).link = s.link := rfl
@[simp] theorem State.buildFrame_hostIn (s : State) (tx : List Byte) : (s.buildFrame tx).hostIn = s.hostIn := rfl
@[simp] theorem State.buildFrame_hostOut (s : State) (tx : List Byte) : (s.buildFrame tx).hostOut = s.hostOut := rfl
@[simp] theorem State.buildFrame_frameIn (s : State) (tx : List Byte) : (s.buildFrame tx).frameIn = s.frameIn := rfl
@[simp] theorem State.buildFrame_draws (s : State) (tx : List Byte) : (s.buildFrame tx).draws = s.draws := rfl
@[simp] theorem State.buildFrame_halted (s : State) (tx : List Byte) : (s.buildFrame tx).halted = s.halted := rfl

@[simp] theorem State.receiveBytes_desc (s : State) (rx : List Byte) : (s.receiveBytes rx).desc = s.desc := rfl
@[simp] theorem State.receiveBytes_txbuf (s : State) (rx : List Byte) : (s.receiveBytes rx).txbuf = s.txbuf := rfl
@[simp] theorem State.receiveBytes_rxbuf (s : State) (rx : List Byte) : (s.receiveBytes rx).rxbuf = bufferOf rx := rfl
@[simp] theorem State.receiveBytes_xlen (s : State) (rx : List Byte) : (s.receiveBytes rx).xlen = s.xlen := rfl
@[simp] theorem State.receiveBytes_lastStatus (s : State) (rx : List Byte) : (s.receiveBytes rx).lastStatus = s.lastStatus := rfl
@[simp] theorem State.receiveBytes_lsValid (s : State) (rx : List Byte) : (s.receiveBytes rx).lsValid = s.lsValid := rfl
@[simp] theorem State.receiveBytes_ceOut (s : State) (rx : List Byte) : (s.receiveBytes rx).ceOut = s.ceOut := rfl
@[simp] theorem State.receiveBytes_seq (s : State) (rx : List Byte) : (s.receiveBytes rx).seq = s.seq := rfl
@[simp] theorem State.receiveBytes_hold (s : State) (rx : List Byte) : (s.receiveBytes rx).hold = s.hold := rfl
@[simp] theorem State.receiveBytes_res (s : State) (rx : List Byte) : (s.receiveBytes rx).res = s.res := rfl
@[simp] theorem State.receiveBytes_trace (s : State) (rx : List Byte) : (s.receiveBytes rx).trace = s.trace := rfl
@[simp] theorem State.receiveBytes_link (s : State) (rx : List Byte) : (s.receiveBytes rx).link = s.link := rfl
@[simp] theorem State.receiveBytes_hostIn (s : State) (rx : List Byte) : (s.receiveBytes rx).hostIn = s.hostIn := rfl
@[simp] theorem State.receiveBytes_hostOut (s : State) (rx : List Byte) : (s.receiveBytes rx).hostOut = s.hostOut := rfl
@[simp] theorem State.receiveBytes_frameIn (s : State) (rx : List Byte) : (s.receiveBytes rx).frameIn = s.frameIn := rfl
@[simp] theorem State.receiveBytes_draws (s : State) (rx : List Byte) : (s.receiveBytes rx).draws = s.draws := rfl
@[simp] theorem State.receiveBytes_halted (s : State) (rx : List Byte) : (s.receiveBytes rx).halted = s.halted := rfl

@[simp] theorem State.latchStatus_desc (s : State) (b : Byte) : (s.latchStatus b).desc = s.desc := rfl
@[simp] theorem State.latchStatus_txbuf (s : State) (b : Byte) : (s.latchStatus b).txbuf = s.txbuf := rfl
@[simp] theorem State.latchStatus_rxbuf (s : State) (b : Byte) : (s.latchStatus b).rxbuf = s.rxbuf := rfl
@[simp] theorem State.latchStatus_xlen (s : State) (b : Byte) : (s.latchStatus b).xlen = s.xlen := rfl
@[simp] theorem State.latchStatus_lastStatus (s : State) (b : Byte) : (s.latchStatus b).lastStatus = b := rfl
@[simp] theorem State.latchStatus_lsValid (s : State) (b : Byte) : (s.latchStatus b).lsValid = true := rfl
@[simp] theorem State.latchStatus_ceOut (s : State) (b : Byte) : (s.latchStatus b).ceOut = s.ceOut := rfl
@[simp] theorem State.latchStatus_seq (s : State) (b : Byte) : (s.latchStatus b).seq = s.seq := rfl
@[simp] theorem State.latchStatus_hold (s : State) (b : Byte) : (s.latchStatus b).hold = s.hold := rfl
@[simp] theorem State.latchStatus_res (s : State) (b : Byte) : (s.latchStatus b).res = s.res := rfl
@[simp] theorem State.latchStatus_trace (s : State) (b : Byte) : (s.latchStatus b).trace = s.trace := rfl
@[simp] theorem State.latchStatus_link (s : State) (b : Byte) : (s.latchStatus b).link = s.link := rfl
@[simp] theorem State.latchStatus_hostIn (s : State) (b : Byte) : (s.latchStatus b).hostIn = s.hostIn := rfl
@[simp] theorem State.latchStatus_hostOut (s : State) (b : Byte) : (s.latchStatus b).hostOut = s.hostOut := rfl
@[simp] theorem State.latchStatus_frameIn (s : State) (b : Byte) : (s.latchStatus b).frameIn = s.frameIn := rfl
@[simp] theorem State.latchStatus_draws (s : State) (b : Byte) : (s.latchStatus b).draws = s.draws := rfl
@[simp] theorem State.latchStatus_halted (s : State) (b : Byte) : (s.latchStatus b).halted = s.halted := rfl

@[simp] theorem State.driveCE_desc (s : State) (l : Bool) : (s.driveCE l).desc = s.desc := rfl
@[simp] theorem State.driveCE_txbuf (s : State) (l : Bool) : (s.driveCE l).txbuf = s.txbuf := rfl
@[simp] theorem State.driveCE_rxbuf (s : State) (l : Bool) : (s.driveCE l).rxbuf = s.rxbuf := rfl
@[simp] theorem State.driveCE_xlen (s : State) (l : Bool) : (s.driveCE l).xlen = s.xlen := rfl
@[simp] theorem State.driveCE_lastStatus (s : State) (l : Bool) : (s.driveCE l).lastStatus = s.lastStatus := rfl
@[simp] theorem State.driveCE_lsValid (s : State) (l : Bool) : (s.driveCE l).lsValid = s.lsValid := rfl
@[simp] theorem State.driveCE_ceOut (s : State) (l : Bool) : (s.driveCE l).ceOut = l := rfl
@[simp] theorem State.driveCE_seq (s : State) (l : Bool) : (s.driveCE l).seq = s.seq := rfl
@[simp] theorem State.driveCE_hold (s : State) (l : Bool) : (s.driveCE l).hold = s.hold := rfl
@[simp] theorem State.driveCE_res (s : State) (l : Bool) : (s.driveCE l).res = s.res := rfl
@[simp] theorem State.driveCE_trace (s : State) (l : Bool) : (s.driveCE l).trace = s.trace := rfl
@[simp] theorem State.driveCE_link (s : State) (l : Bool) : (s.driveCE l).link = s.link := rfl
@[simp] theorem State.driveCE_hostIn (s : State) (l : Bool) : (s.driveCE l).hostIn = s.hostIn := rfl
@[simp] theorem State.driveCE_hostOut (s : State) (l : Bool) : (s.driveCE l).hostOut = s.hostOut := rfl
@[simp] theorem State.driveCE_frameIn (s : State) (l : Bool) : (s.driveCE l).frameIn = s.frameIn := rfl
@[simp] theorem State.driveCE_draws (s : State) (l : Bool) : (s.driveCE l).draws = s.draws := rfl
@[simp] theorem State.driveCE_halted (s : State) (l : Bool) : (s.driveCE l).halted = s.halted := rfl

@[simp] theorem State.setHold_desc (s : State) (n : Nat) : (s.setHold n).desc = s.desc := rfl
@[simp] theorem State.setHold_txbuf (s : State) (n : Nat) : (s.setHold n).txbuf = s.txbuf := rfl
@[simp] theorem State.setHold_rxbuf (s : State) (n : Nat) : (s.setHold n).rxbuf = s.rxbuf := rfl
@[simp] theorem State.setHold_xlen (s : State) (n : Nat) : (s.setHold n).xlen = s.xlen := rfl
@[simp] theorem State.setHold_lastStatus (s : State) (n : Nat) : (s.setHold n).lastStatus = s.lastStatus := rfl
@[simp] theorem State.setHold_lsValid (s : State) (n : Nat) : (s.setHold n).lsValid = s.lsValid := rfl
@[simp] theorem State.setHold_ceOut (s : State) (n : Nat) : (s.setHold n).ceOut = s.ceOut := rfl
@[simp] theorem State.setHold_seq (s : State) (n : Nat) : (s.setHold n).seq = s.seq := rfl
@[simp] theorem State.setHold_hold (s : State) (n : Nat) : (s.setHold n).hold = n := rfl
@[simp] theorem State.setHold_res (s : State) (n : Nat) : (s.setHold n).res = s.res := rfl
@[simp] theorem State.setHold_trace (s : State) (n : Nat) : (s.setHold n).trace = s.trace := rfl
@[simp] theorem State.setHold_link (s : State) (n : Nat) : (s.setHold n).link = s.link := rfl
@[simp] theorem State.setHold_hostIn (s : State) (n : Nat) : (s.setHold n).hostIn = s.hostIn := rfl
@[simp] theorem State.setHold_hostOut (s : State) (n : Nat) : (s.setHold n).hostOut = s.hostOut := rfl
@[simp] theorem State.setHold_frameIn (s : State) (n : Nat) : (s.setHold n).frameIn = s.frameIn := rfl
@[simp] theorem State.setHold_draws (s : State) (n : Nat) : (s.setHold n).draws = s.draws := rfl
@[simp] theorem State.setHold_halted (s : State) (n : Nat) : (s.setHold n).halted = s.halted := rfl

@[simp] theorem State.setRes_desc (s : State) (r : Res) : (s.setRes r).desc = s.desc := rfl
@[simp] theorem State.setRes_txbuf (s : State) (r : Res) : (s.setRes r).txbuf = s.txbuf := rfl
@[simp] theorem State.setRes_rxbuf (s : State) (r : Res) : (s.setRes r).rxbuf = s.rxbuf := rfl
@[simp] theorem State.setRes_xlen (s : State) (r : Res) : (s.setRes r).xlen = s.xlen := rfl
@[simp] theorem State.setRes_lastStatus (s : State) (r : Res) : (s.setRes r).lastStatus = s.lastStatus := rfl
@[simp] theorem State.setRes_lsValid (s : State) (r : Res) : (s.setRes r).lsValid = s.lsValid := rfl
@[simp] theorem State.setRes_ceOut (s : State) (r : Res) : (s.setRes r).ceOut = s.ceOut := rfl
@[simp] theorem State.setRes_seq (s : State) (r : Res) : (s.setRes r).seq = s.seq := rfl
@[simp] theorem State.setRes_hold (s : State) (r : Res) : (s.setRes r).hold = s.hold := rfl
@[simp] theorem State.setRes_res (s : State) (r : Res) : (s.setRes r).res = r := rfl
@[simp] theorem State.setRes_trace (s : State) (r : Res) : (s.setRes r).trace = s.trace := rfl
@[simp] theorem State.setRes_link (s : State) (r : Res) : (s.setRes r).link = s.link := rfl
@[simp] theorem State.setRes_hostIn (s : State) (r : Res) : (s.setRes r).hostIn = s.hostIn := rfl
@[simp] theorem State.setRes_hostOut (s : State) (r : Res) : (s.setRes r).hostOut = s.hostOut := rfl
@[simp] theorem State.setRes_frameIn (s : State) (r : Res) : (s.setRes r).frameIn = s.frameIn := rfl
@[simp] theorem State.setRes_draws (s : State) (r : Res) : (s.setRes r).draws = s.draws := rfl
@[simp] theorem State.setRes_halted (s : State) (r : Res) : (s.setRes r).halted = s.halted := rfl

@[simp] theorem State.emit_desc (s : State) (e : Event) : (s.emit e).desc = s.desc := rfl
@[simp] theorem State.emit_txbuf (s : State) (e : Event) : (s.emit e).txbuf = s.txbuf := rfl
@[simp] theorem State.emit_rxbuf (s : State) (e : Event) : (s.emit e).rxbuf = s.rxbuf := rfl
@[simp] theorem State.emit_xlen (s : State) (e : Event) : (s.emit e).xlen = s.xlen := rfl
@[simp] theorem State.emit_lastStatus (s : State) (e : Event) : (s.emit e).lastStatus = s.lastStatus := rfl
@[simp] theorem State.emit_lsValid (s : State) (e : Event) : (s.emit e).lsValid = s.lsValid := rfl
@[simp] theorem State.emit_ceOut (s : State) (e : Event) : (s.emit e).ceOut = s.ceOut := rfl
@[simp] theorem State.emit_seq (s : State) (e : Event) : (s.emit e).seq = s.seq := rfl
@[simp] theorem State.emit_hold (s : State) (e : Event) : (s.emit e).hold = s.hold := rfl
@[simp] theorem State.emit_res (s : State) (e : Event) : (s.emit e).res = s.res := rfl
@[simp] theorem State.emit_trace (s : State) (e : Event) : (s.emit e).trace = s.trace ++ [e] := rfl
@[simp] theorem State.emit_link (s : State) (e : Event) : (s.emit e).link = s.link := rfl
@[simp] theorem State.emit_hostIn (s : State) (e : Event) : (s.emit e).hostIn = s.hostIn := rfl
@[simp] theorem State.emit_hostOut (s : State) (e : Event) : (s.emit e).hostOut = s.hostOut := rfl
@[simp] theorem State.emit_frameIn (s : State) (e : Event) : (s.emit e).frameIn = s.frameIn := rfl
@[simp] theorem State.emit_draws (s : State) (e : Event) : (s.emit e).draws = s.draws := rfl
@[simp] theorem State.emit_halted (s : State) (e : Event) : (s.emit e).halted = s.halted := rfl

@[simp] theorem State.setLink_desc (s : State) (l : List LinkAnswer) : (s.setLink l).desc = s.desc := rfl
@[simp] theorem State.setLink_txbuf (s : State) (l : List LinkAnswer) : (s.setLink l).txbuf = s.txbuf := rfl
@[simp] theorem State.setLink_rxbuf (s : State) (l : List LinkAnswer) : (s.setLink l).rxbuf = s.rxbuf := rfl
@[simp] theorem State.setLink_xlen (s : State) (l : List LinkAnswer) : (s.setLink l).xlen = s.xlen := rfl
@[simp] theorem State.setLink_lastStatus (s : State) (l : List LinkAnswer) : (s.setLink l).lastStatus = s.lastStatus := rfl
@[simp] theorem State.setLink_lsValid (s : State) (l : List LinkAnswer) : (s.setLink l).lsValid = s.lsValid := rfl
@[simp] theorem State.setLink_ceOut (s : State) (l : List LinkAnswer) : (s.setLink l).ceOut = s.ceOut := rfl
@[simp] theorem State.setLink_seq (s : State) (l : List LinkAnswer) : (s.setLink l).seq = s.seq := rfl
@[simp] theorem State.setLink_hold (s : State) (l : List LinkAnswer) : (s.setLink l).hold = s.hold := rfl
@[simp] theorem State.setLink_res (s : State) (l : List LinkAnswer) : (s.setLink l).res = s.res := rfl
@[simp] theorem State.setLink_trace (s : State) (l : List LinkAnswer) : (s.setLink l).trace = s.trace := rfl
@[simp] theorem State.setLink_link (s : State) (l : List LinkAnswer) : (s.setLink l).link = l := rfl
@[simp] theorem State.setLink_hostIn (s : State) (l : List LinkAnswer) : (s.setLink l).hostIn = s.hostIn := rfl
@[simp] theorem State.setLink_hostOut (s : State) (l : List LinkAnswer) : (s.setLink l).hostOut = s.hostOut := rfl
@[simp] theorem State.setLink_frameIn (s : State) (l : List LinkAnswer) : (s.setLink l).frameIn = s.frameIn := rfl
@[simp] theorem State.setLink_draws (s : State) (l : List LinkAnswer) : (s.setLink l).draws = s.draws := rfl
@[simp] theorem State.setLink_halted (s : State) (l : List LinkAnswer) : (s.setLink l).halted = s.halted := rfl

@[simp] theorem State.setHostIn_desc (s : State) (l : List Byte) : (s.setHostIn l).desc = s.desc := rfl
@[simp] theorem State.setHostIn_txbuf (s : State) (l : List Byte) : (s.setHostIn l).txbuf = s.txbuf := rfl
@[simp] theorem State.setHostIn_rxbuf (s : State) (l : List Byte) : (s.setHostIn l).rxbuf = s.rxbuf := rfl
@[simp] theorem State.setHostIn_xlen (s : State) (l : List Byte) : (s.setHostIn l).xlen = s.xlen := rfl
@[simp] theorem State.setHostIn_lastStatus (s : State) (l : List Byte) : (s.setHostIn l).lastStatus = s.lastStatus := rfl
@[simp] theorem State.setHostIn_lsValid (s : State) (l : List Byte) : (s.setHostIn l).lsValid = s.lsValid := rfl
@[simp] theorem State.setHostIn_ceOut (s : State) (l : List Byte) : (s.setHostIn l).ceOut = s.ceOut := rfl
@[simp] theorem State.setHostIn_seq (s : State) (l : List Byte) : (s.setHostIn l).seq = s.seq := rfl
@[simp] theorem State.setHostIn_hold (s : State) (l : List Byte) : (s.setHostIn l).hold = s.hold := rfl
@[simp] theorem State.setHostIn_res (s : State) (l : List Byte) : (s.setHostIn l).res = s.res := rfl
@[simp] theorem State.setHostIn_trace (s : State) (l : List Byte) : (s.setHostIn l).trace = s.trace := rfl
@[simp] theorem State.setHostIn_link (s : State) (l : List Byte) : (s.setHostIn l).link = s.link := rfl
@[simp] theorem State.setHostIn_hostIn (s : State) (l : List Byte) : (s.setHostIn l).hostIn = l := rfl
@[simp] theorem State.setHostIn_hostOut (s : State) (l : List Byte) : (s.setHostIn l).hostOut = s.hostOut := rfl
@[simp] theorem State.setHostIn_frameIn (s : State) (l : List Byte) : (s.setHostIn l).frameIn = s.frameIn := rfl
@[simp] theorem State.setHostIn_draws (s : State) (l : List Byte) : (s.setHostIn l).draws = s.draws := rfl
@[simp] theorem State.setHostIn_halted (s : State) (l : List Byte) : (s.setHostIn l).halted = s.halted := rfl

@[simp] theorem State.setFrameIn_desc (s : State) (l : List Byte) : (s.setFrameIn l).desc = s.desc := rfl
@[simp] theorem State.setFrameIn_txbuf (s : State) (l : List Byte) : (s.setFrameIn l).txbuf = s.txbuf := rfl
@[simp] theorem State.setFrameIn_rxbuf (s : State) (l : List Byte) : (s.setFrameIn l).rxbuf = s.rxbuf := rfl
@[simp] theorem State.setFrameIn_xlen (s : State) (l : List Byte) : (s.setFrameIn l).xlen = s.xlen := rfl
@[simp] theorem State.setFrameIn_lastStatus (s : State) (l : List Byte) : (s.setFrameIn l).lastStatus = s.lastStatus := rfl
@[simp] theorem State.setFrameIn_lsValid (s : State) (l : List Byte) : (s.setFrameIn l).lsValid = s.lsValid := rfl
@[simp] theorem State.setFrameIn_ceOut (s : State) (l : List Byte) : (s.setFrameIn l).ceOut = s.ceOut := rfl
@[simp] theorem State.setFrameIn_seq (s : State) (l : List Byte) : (s.setFrameIn l).seq = s.seq := rfl
@[simp] theorem State.setFrameIn_hold (s : State) (l : List Byte) : (s.setFrameIn l).hold = s.hold := rfl
@[simp] theorem State.setFrameIn_res (s : State) (l : List Byte) : (s.setFrameIn l).res = s.res := rfl
@[simp] theorem State.setFrameIn_trace (s : State) (l : List Byte) : (s.setFrameIn l).trace = s.trace := rfl
@[simp] theorem State.setFrameIn_link (s : State) (l : List Byte) : (s.setFrameIn l).link = s.link := rfl
@[simp] theorem State.setFrameIn_hostIn (s : State) (l : List Byte) : (s.setFrameIn l).hostIn = s.hostIn := rfl
@[simp] theorem State.setFrameIn_hostOut (s : State) (l : List Byte) : (s.setFrameIn l).hostOut = s.hostOut := rfl
@[simp] theorem State.setFrameIn_frameIn (s : State) (l : List Byte) : (s.setFrameIn l).frameIn = l := rfl
@[simp] theorem State.setFrameIn_draws (s : State) (l : List Byte) : (s.setFrameIn l).draws = s.draws := rfl
@[simp] theorem State.setFrameIn_halted (s : State) (l : List Byte) : (s.setFrameIn l).halted = s.halted := rfl

@[simp] theorem State.putOut_desc (s : State) (l : List Byte) : (s.putOut l).desc = s.desc := rfl
@[simp] theorem State.putOut_txbuf (s : State) (l : List Byte) : (s.putOut l).txbuf = s.txbuf := rfl
@[simp] theorem State.putOut_rxbuf (s : State) (l : List Byte) : (s.putOut l).rxbuf = s.rxbuf := rfl
@[simp] theorem State.putOut_xlen (s : State) (l : List Byte) : (s.putOut l).xlen = s.xlen := rfl
@[simp] theorem State.putOut_lastStatus (s : State) (l : List Byte) : (s.putOut l).lastStatus = s.lastStatus := rfl
@[simp] theorem State.putOut_lsValid (s : State) (l : List Byte) : (s.putOut l).lsValid = s.lsValid := rfl
@[simp] theorem State.putOut_ceOut (s : State) (l : List Byte) : (s.putOut l).ceOut = s.ceOut := rfl
@[simp] theorem State.putOut_seq (s : State) (l : List Byte) : (s.putOut l).seq = s.seq := rfl
@[simp] theorem State.putOut_hold (s : State) (l : List Byte) : (s.putOut l).hold = s.hold := rfl
@[simp] theorem State.putOut_res (s : State) (l : List Byte) : (s.putOut l).res = s.res := rfl
@[simp] theorem State.putOut_trace (s : State) (l : List Byte) : (s.putOut l).trace = s.trace := rfl
@[simp] theorem State.putOut_link (s : State) (l : List Byte) : (s.putOut l).link = s.link := rfl
@[simp] theorem State.putOut_hostIn (s : State) (l : List Byte) : (s.putOut l).hostIn = s.hostIn := rfl
@[simp] theorem State.putOut_hostOut (s : State) (l : List Byte) : (s.putOut l).hostOut = s.hostOut ++ l := rfl
@[simp] theorem State.putOut_frameIn (s : State) (l : List Byte) : (s.putOut l).frameIn = s.frameIn := rfl
@[simp] theorem State.putOut_draws (s : State) (l : List Byte) : (s.putOut l).draws = s.draws := rfl
@[simp] theorem State.putOut_halted (s : State) (l : List Byte) : (s.putOut l).halted = s.halted := rfl

@[simp] theorem State.useDraws_desc (s : State) (n : Nat) : (s.useDraws n).desc = s.desc := rfl
@[simp] theorem State.useDraws_txbuf (s : State) (n : Nat) : (s.useDraws n).txbuf = s.txbuf := rfl
@[simp] theorem State.useDraws_rxbuf (s : State) (n : Nat) : (s.useDraws n).rxbuf = s.rxbuf := rfl
@[simp] theorem State.useDraws_xlen (s : State) (n : Nat) : (s.useDraws n).xlen = s.xlen := rfl
@[simp] theorem State.useDraws_lastStatus (s : State) (n : Nat) : (s.useDraws n).lastStatus = s.lastStatus := rfl
@[simp] theorem State.useDraws_lsValid (s : State) (n : Nat) : (s.useDraws n).lsValid = s.lsValid := rfl
@[simp] theorem State.useDraws_ceOut (s : State) (n : Nat) : (s.useDraws n).ceOut = s.ceOut := rfl
@[simp] theorem State.useDraws_seq (s : State) (n : Nat) : (s.useDraws n).seq = s.seq := rfl
@[simp] theorem State.useDraws_hold (s : State) (n : Nat) : (s.useDraws n).hold = s.hold := rfl
@[simp] theorem State.useDraws_res (s : State) (n : Nat) : (s.useDraws n).res = s.res := rfl
@[simp] theorem State.useDraws_trace (s : State) (n : Nat) : (s.useDraws n).trace = s.trace := rfl
@[simp] theorem State.useDraws_link (s : State) (n : Nat) : (s.useDraws n).link = s.link := rfl
@[simp] theorem State.useDraws_hostIn (s : State) (n : Nat) : (s.useDraws n).hostIn = s.hostIn := rfl
@[simp] theorem State.useDraws_hostOut (s : State) (n : Nat) : (s.useDraws n).hostOut = s.hostOut := rfl
@[simp] theorem State.useDraws_frameIn (s : State) (n : Nat) : (s.useDraws n).frameIn = s.frameIn := rfl
@[simp] theorem State.useDraws_draws (s : State) (n : Nat) : (s.useDraws n).draws = s.draws + n := rfl
@[simp] theorem State.useDraws_halted (s : State) (n : Nat) : (s.useDraws n).halted = s.halted := rfl

@[simp] theorem State.setHalted_desc (s : State) (f : Option Fault) : (s.setHalted f).desc = s.desc := rfl
@[simp] theorem State.setHalted_txbuf (s : State) (f : Option Fault) : (s.setHalted f).txbuf = s.txbuf := rfl
@[simp] theorem State.setHalted_rxbuf (s : State) (f : Option Fault) : (s.setHalted f).rxbuf = s.rxbuf := rfl
@[simp] theorem State.setHalted_xlen (s : State) (f : Option Fault) : (s.setHalted f).xlen = s.xlen := rfl
@[simp] theorem State.setHalted_lastStatus (s : State) (f : Option Fault) : (s.setHalted f).lastStatus = s.lastStatus := rfl
@[simp] theorem State.setHalted_lsValid (s : State) (f : Option Fault) : (s.setHalted f).lsValid = s.lsValid := rfl
@[simp] theorem State.setHalted_ceOut (s : State) (f : Option Fault) : (s.setHalted f).ceOut = s.ceOut := rfl
@[simp] theorem State.setHalted_seq (s : State) (f : Option Fault) : (s.setHalted f).seq = s.seq := rfl
@[simp] theorem State.setHalted_hold (s : State) (f : Option Fault) : (s.setHalted f).hold = s.hold := rfl
@[simp] theorem State.setHalted_res (s : State) (f : Option Fault) : (s.setHalted f).res = s.res := rfl
@[simp] theorem State.setHalted_trace (s : State) (f : Option Fault) : (s.setHalted f).trace = s.trace := rfl
@[simp] theorem State.setHalted_link (s : State) (f : Option Fault) : (s.setHalted f).link = s.link := rfl
@[simp] theorem State.setHalted_hostIn (s : State) (f : Option Fault) : (s.setHalted f).hostIn = s.hostIn := rfl
@[simp] theorem State.setHalted_hostOut (s : State) (f : Option Fault) : (s.setHalted f).hostOut = s.hostOut := rfl
@[simp] theorem State.setHalted_frameIn (s : State) (f : Option Fault) : (s.setHalted f).frameIn = s.frameIn := rfl
@[simp] theorem State.setHalted_draws (s : State) (f : Option Fault) : (s.setHalted f).draws = s.draws := rfl
@[simp] theorem State.setHalted_halted (s : State) (f : Option Fault) : (s.setHalted f).halted = f := rfl

end Sys2Proof.Machine
end

