-- ==== Sys2Proof/Laws/Ops.lean ====
section
/-! SUPPORT. One lemma per shared operation that says everything it can do; the proofs cite these and do not unfold the
operations. -/

namespace Sys2Proof.Machine

/-! ### Bytes and buffers -/

@[simp] theorem dummies_length (n : Nat) : (dummies n).length = n := by simp [dummies]

@[simp] theorem freeBytes_length (n base : Nat) : (freeBytes n base).length = n := by simp [freeBytes]

/-- A sequence of the right length is taken as it is. -/
theorem fitBytes_exact {n : Nat} {bytes : List Byte} (h : bytes.length = n) (base : Nat) :
    fitBytes n bytes base = bytes := by
  subst h; simp [fitBytes]

@[simp] theorem fitBytes_length (n : Nat) (bytes : List Byte) (base : Nat) : (fitBytes n bytes base).length = n := by
  simp [fitBytes]

theorem bufferOf_toList (bytes : List Byte) : (bufferOf bytes).toList = (bytes ++ dummies 64).take 64 := by
  simp [bufferOf, Vector.toList]

/-- The first `n` bytes of a buffer that was given `n` bytes. -/
theorem bufferOf_take {bytes : List Byte} (h : bytes.length ≤ 64) :
    (bufferOf bytes).toList.take bytes.length = bytes := by
  rw [bufferOf_toList, List.take_take, Nat.min_eq_left h]; simp

/-- A buffer given dummy bytes is a re-initialised one. -/
theorem bufferOf_dummies (n : Nat) : bufferOf (dummies n) = bufferOf [] := by
  apply Vector.toList_inj.mp
  simp only [bufferOf_toList, dummies, ← List.replicate_add, List.nil_append, List.take_replicate]
  congr 1

theorem xlen_toNat {n : Nat} (h : n ≤ 64) : (BitVec.ofNat 7 n).toNat = n := by
  rw [BitVec.toNat_ofNat]; omega

/-- What an exchange sends is the frame that was built. -/
theorem outFrame_of {s : State} {tx : List Byte} (hb : s.txbuf = bufferOf tx)
    (hx : s.xlen = BitVec.ofNat 7 tx.length) (h : tx.length ≤ 64) : s.outFrame = tx := by
  rw [State.outFrame, hb, hx, xlen_toNat h, bufferOf_take h]

/-- What an exchange returns is the answer that came in. -/
theorem inFrame_of {s : State} {rx : List Byte} (hb : s.rxbuf = bufferOf rx)
    (hx : s.xlen = BitVec.ofNat 7 rx.length) (h : rx.length ≤ 64) : s.inFrame = rx := by
  rw [State.inFrame, hb, hx, xlen_toNat h, bufferOf_take h]

theorem resDataOf_toList (bytes : List Byte) (base : Nat) : (resDataOf bytes base).toList = fitBytes 32 bytes base := by
  simp [resDataOf, Vector.toList]

theorem statusByte_valid {s : State} (h : s.lsValid = true) : s.statusByte = s.lastStatus := by
  simp [State.statusByte, h]

/-! ### Completing an operation -/

/-- A response changes SEQ.phase, RES and the count of free values, and nothing else. -/
theorem respond_eq (err event : Byte) (pipe : Option Byte) (data : List Byte) (s : State) :
    respond err event pipe data s =
      { s with
        seq := ⟨s.seq.op, s.seq.k, .done⟩
        res := (respond err event pipe data s).res
        draws := s.draws + 34 } := rfl

@[simp] theorem respond_err (err event : Byte) (pipe : Option Byte) (data : List Byte) (s : State) :
    (respond err event pipe data s).res.err = err := rfl

@[simp] theorem respond_status (err event : Byte) (pipe : Option Byte) (data : List Byte) (s : State) :
    (respond err event pipe data s).res.status = s.statusByte := rfl

@[simp] theorem respond_event (err event : Byte) (pipe : Option Byte) (data : List Byte) (s : State) :
    (respond err event pipe data s).res.event = event := rfl

@[simp] theorem respond_pipe (err event pipe : Byte) (data : List Byte) (s : State) :
    (respond err event (some pipe) data s).res.pipe = pipe := rfl

@[simp] theorem respond_len (err event : Byte) (pipe : Option Byte) (data : List Byte) (s : State) :
    (respond err event pipe data s).res.len = BitVec.ofNat 8 data.length := rfl

/-- The sequence a response carries is the one it was formed with. -/
theorem respond_payload (err event : Byte) (pipe : Option Byte) {data : List Byte} (h : data.length ≤ 32) (s : State) :
    (respond err event pipe data s).res.payload = data := by
  have hl : (BitVec.ofNat 8 data.length).toNat = data.length := by simp [BitVec.toNat_ofNat]; omega
  have hd : (respond err event pipe data s).res.data = resDataOf data (s.draws + 2) := rfl
  rw [Res.payload, respond_len, hl, hd, resDataOf_toList, fitBytes, List.take_take, Nat.min_eq_left h]
  simp

/-! ### Parts of an operation -/

@[simp] theorem Run.bind_on {α β : Type} (s : State) (a : α) (f : State → α → Run β) : (Run.on s a).bind f = f s a := rfl
@[simp] theorem Run.bind_over {α β : Type} (s : State) (f : State → α → Run β) :
    (Run.over s : Run α).bind f = .over s := rfl
@[simp] theorem Run.map_on {α β : Type} (s : State) (a : α) (f : α → β) : (Run.on s a).map f = .on s (f a) := rfl
@[simp] theorem Run.map_over {α β : Type} (s : State) (f : α → β) : (Run.over s : Run α).map f = .over s := rfl
@[simp] theorem Run.close_on {α : Type} (s : State) (a : α) (f : State → α → State) : (Run.on s a).close f = f s a := rfl
@[simp] theorem Run.close_over {α : Type} (s : State) (f : State → α → State) :
    (Run.over s : Run α).close f = s := rfl

/-! ### The transport -/

theorem atLink_eq (tx : List Byte) (s : State) :
    atLink tx s =
      { s with
        txbuf := bufferOf tx
        rxbuf := bufferOf []
        xlen := BitVec.ofNat 7 tx.length
        seq := ⟨s.seq.op, s.seq.k, .xchg⟩ } := rfl

theorem atLink_outFrame {tx : List Byte} (h : tx.length ≤ 64) (s : State) : (atLink tx s).outFrame = tx :=
  outFrame_of rfl rfl h

/-- The end of a successful exchange, field by field. -/
theorem exchangeDone_eq {tx rx : List Byte} (h : rx.length = tx.length) (hl : tx.length ≤ 64) {u : State}
    (hb : u.txbuf = bufferOf tx) (hx : u.xlen = BitVec.ofNat 7 tx.length) :
    exchangeDone rx u =
      .on
        { u with
          rxbuf := bufferOf rx
          lastStatus := statusOf rx
          lsValid := true
          seq := ⟨u.seq.op, u.seq.k + 1, .decode⟩
          trace := u.trace ++ [.x tx rx] }
        rx := by
  have hi : ∀ v : State, v.rxbuf = bufferOf rx → v.xlen = u.xlen → v.inFrame = rx := fun v h1 h2 =>
    inFrame_of h1 (by rw [h2, hx, h]) (by omega)
  have ho : ∀ v : State, v.txbuf = u.txbuf → v.xlen = u.xlen → v.outFrame = tx := fun v h1 h2 =>
    outFrame_of (by rw [h1, hb]) (by rw [h2, hx]) hl
  have e1 : ((u.receiveBytes rx).setPhase .decode).inFrame = rx := hi _ rfl rfl
  have e2 : ((u.receiveBytes rx).setPhase .decode).outFrame = tx := ho _ rfl rfl
  simp only [exchangeDone, e1, e2]
  have e3 : ∀ e, ((((u.receiveBytes rx).setPhase .decode).latchStatus (statusOf rx)).countExchange.emit e).inFrame = rx :=
    fun _ => hi _ rfl rfl
  rw [e3]
  rfl

/-- An exchange whose next listed answer has the length of the frame. -/
theorem exchange_answered {tx rx : List Byte} {more : List LinkAnswer} {s : State} (hl : tx.length ≤ 64)
    (hk : s.link = .ok rx :: more) (h : rx.length = tx.length) :
    exchange tx s =
      .on
        { s with
          txbuf := bufferOf tx
          rxbuf := bufferOf rx
          xlen := BitVec.ofNat 7 tx.length
          lastStatus := statusOf rx
          lsValid := true
          seq := ⟨s.seq.op, s.seq.k + 1, .decode⟩
          link := more
          trace := s.trace ++ [.x tx rx]
          draws := s.draws + tx.length }
        rx := by
  rw [exchange, atLink_outFrame hl s, linkAnswer]
  simp only [show (atLink tx s).link = .ok rx :: more from hk, fitAnswer, fitBytes_exact h, onAnswer]
  rw [exchangeDone_eq h hl rfl rfl]
  rfl

/-- An exchange whose next listed answer is a failure. -/
theorem exchange_failed {tx : List Byte} {more : List LinkAnswer} {s : State} (hl : tx.length ≤ 64)
    (hk : s.link = .fail :: more) :
    exchange tx s = .over (raise .transport (((atLink tx s).setLink more).emit (.xfail tx))) := by
  rw [exchange, atLink_outFrame hl s, linkAnswer]
  simp only [show (atLink tx s).link = .fail :: more from hk, fitAnswer, onAnswer]
  rw [show ((atLink tx s).setLink more).outFrame = tx from atLink_outFrame hl s]

/-- An exchange whose next listed answer never comes. -/
theorem exchange_stalled {tx : List Byte} {more : List LinkAnswer} {s : State} (hl : tx.length ≤ 64)
    (hk : s.link = .never :: more) :
    exchange tx s = .over ((atLink tx s).setLink more) := by
  rw [exchange, atLink_outFrame hl s, linkAnswer]
  simp only [show (atLink tx s).link = .never :: more from hk, fitAnswer, onAnswer]

/-- What asking the link can give, in any state: an answer of `n` bytes, a failure or nothing, with only the listed
answers and the count of free values changed. -/
theorem linkAnswer_cases (n : Nat) (s : State) :
    ∃ l d, ((∃ rx, rx.length = n ∧ linkAnswer n s = (.ok rx, { s with link := l, draws := d })) ∨
      linkAnswer n s = (.fail, { s with link := l, draws := d }) ∨
      linkAnswer n s = (.never, { s with link := l, draws := d })) := by
  have fit : ∀ (a : LinkAnswer) (t : State), ∃ d,
      ((∃ rx, rx.length = n ∧ fitAnswer n a t = (.ok rx, { t with draws := d })) ∨
        fitAnswer n a t = (.fail, { t with draws := d }) ∨ fitAnswer n a t = (.never, { t with draws := d })) := by
    intro a t
    cases a with
    | ok bytes => exact ⟨t.draws + n, .inl ⟨_, fitBytes_length n bytes t.draws, rfl⟩⟩
    | fail => exact ⟨t.draws, .inr (.inl rfl)⟩
    | never => exact ⟨t.draws, .inr (.inr rfl)⟩
  unfold linkAnswer
  cases hl : s.link with
  | nil =>
    obtain ⟨d, h⟩ := fit (Config.freeLink s.draws) (s.useDraws 1)
    refine ⟨s.link, d, ?_⟩
    simpa [State.useDraws, hl] using h
  | cons a more =>
    obtain ⟨d, h⟩ := fit a (s.setLink more)
    exact ⟨more, d, by simpa [State.setLink] using h⟩

/-- Everything an exchange can do, in any state (40_transport R111): it succeeds, and the frame and its answer are in the
buffers, the status is latched and the event seen; or it fails and ends the operation with TransportError; or it stalls. -/
theorem exchange_cases {tx : List Byte} (hl : tx.length ≤ 64) (s : State) :
    ∃ l d,
      (∃ rx, rx.length = tx.length ∧
        exchange tx s =
          .on
            { s with
              txbuf := bufferOf tx
              rxbuf := bufferOf rx
              xlen := BitVec.ofNat 7 tx.length
              lastStatus := statusOf rx
              lsValid := true
              seq := ⟨s.seq.op, s.seq.k + 1, .decode⟩
              link := l
              trace := s.trace ++ [.x tx rx]
              draws := d }
            rx) ∨
      exchange tx s = .over (raise .transport { atLink tx s with link := l, draws := d, trace := s.trace ++ [.xfail tx] }) ∨
      exchange tx s = .over { atLink tx s with link := l, draws := d } := by
  have ho := atLink_outFrame hl s
  obtain ⟨l, d, h⟩ := linkAnswer_cases tx.length (atLink tx s)
  refine ⟨l, d, ?_⟩
  rw [exchange, ho]
  rcases h with ⟨rx, hr, h⟩ | h | h
  · left
    refine ⟨rx, hr, ?_⟩
    rw [h, onAnswer, exchangeDone_eq hr hl rfl rfl]
    rfl
  · right; left
    rw [h, onAnswer]
    rw [show State.outFrame { atLink tx s with link := l, draws := d } = tx from ho]
    rfl
  · right; right
    rw [h, onAnswer]

/-! ### Admission -/

/-- An idle block runs a host operation. -/
theorem accept_ready {op : HostOp} {body : State → State} {s : State} (hh : s.halted = none)
    (hp : s.seq.phase = .idle) : accept op body s = .next (body (s.setSeq ⟨some op, 0, .check⟩)) := by
  simp [accept, hh, State.busy, hp]

/-- A busy block ignores a host operation. -/
theorem accept_busy {op : HostOp} {body : State → State} {s : State} (hh : s.halted = none)
    (hp : s.seq.phase ≠ .idle) : accept op body s = .next s := by
  simp [accept, hh, State.busy, hp]

/-- Everything admission can do. -/
theorem accept_cases {op : HostOp} {body : State → State} {s t : State} (h : accept op body s = .next t) :
    s.halted = none ∧
      ((s.seq.phase = .idle ∧ t = body (s.setSeq ⟨some op, 0, .check⟩)) ∨ (s.seq.phase ≠ .idle ∧ t = s)) := by
  unfold accept at h
  split at h
  · cases h
  · rename_i hh
    by_cases hp : s.seq.phase = .idle
    · simp only [State.busy, hp, ne_eq, not_true_eq_false, decide_false, Bool.false_eq_true, if_false] at h
      exact ⟨hh, .inl ⟨hp, (Host.Outcome.next.inj h).symm⟩⟩
    · simp only [State.busy, hp, ne_eq, not_false_eq_true, decide_true, if_true] at h
      exact ⟨hh, .inr ⟨hp, (Host.Outcome.next.inj h).symm⟩⟩

/-- An idle block runs a well-formed wire command. -/
theorem acceptFrame_ready {i : Instr} {s : State} (hw : wellFormed s.desc i = true) (hh : s.halted = none)
    (hp : s.seq.phase = .idle) : acceptFrame i s = .next (sendFrame (encode s.desc i) s) := by
  simp [acceptFrame, hh, hw, State.busy, hp]

/-- Everything admission of a wire command can do. -/
theorem acceptFrame_cases {i : Instr} {s t : State} (h : acceptFrame i s = .next t) :
    s.halted = none ∧ wellFormed s.desc i = true ∧
      ((s.seq.phase = .idle ∧ t = sendFrame (encode s.desc i) s) ∨ (s.seq.phase ≠ .idle ∧ t = s)) := by
  unfold acceptFrame at h
  split at h
  · cases h
  · rename_i hh
    by_cases hw : wellFormed s.desc i = true
    · rw [if_pos hw] at h
      by_cases hp : s.seq.phase = .idle
      · simp only [State.busy, hp, ne_eq, not_true_eq_false, decide_false, Bool.false_eq_true, if_false] at h
        exact ⟨hh, hw, .inl ⟨hp, (Host.Outcome.next.inj h).symm⟩⟩
      · simp only [State.busy, hp, ne_eq, not_false_eq_true, decide_true, if_true] at h
        exact ⟨hh, hw, .inr ⟨hp, (Host.Outcome.next.inj h).symm⟩⟩
    · rw [if_neg hw] at h
      cases h

end Sys2Proof.Machine
end

