-- ==== Sys2Proof/Laws/PerInstr.lean ====
section
/-! SUPPORT. Per-instruction facts about the encoding as syntax: how many bytes a well-formed instruction has (30_encoding
R87, R98). -/

namespace Sys2Proof.Laws.EncodeLength

open Sys2Proof.Machine

theorem sizeOf_le (d : DescTable) (a : BitVec 5) : d.sizeOf a ≤ 5 := by
  unfold DescTable.sizeOf RegSize.bytes
  split <;> omega

/-- A frame has 1 to 33 bytes, a request has 3 to 258. -/
def Statement (i : Instr) : Prop :=
  ∀ d : DescTable, wellFormed d i = true →
    (i.space = .wire → 1 ≤ (encode d i).length ∧ (encode d i).length ≤ 33) ∧
    (i.space = .host → 3 ≤ (encode d i).length ∧ (encode d i).length ≤ 258)

theorem wireRdReg (a : BitVec 5) : Statement (.wireRdReg a) := by
  intro d _
  have := sizeOf_le d a
  simp [Instr.space, encode, frameRdReg]
  omega

theorem wireWrReg (a : BitVec 5) (bytes : List Byte) : Statement (.wireWrReg a bytes) := by
  intro d h
  have := sizeOf_le d a
  simp [wellFormed] at h
  simp [Instr.space, encode, frameWrReg]
  omega

theorem wireRdRxplw : Statement .wireRdRxplw := by
  intro d _
  simp [Instr.space, encode, frameRdRxplw]

theorem wireRdRxpl (width : Nat) : Statement (.wireRdRxpl width) := by
  intro d h
  simp [wellFormed] at h
  simp [Instr.space, encode, frameRdRxpl]
  omega

theorem wireWrTxpl (payload : List Byte) : Statement (.wireWrTxpl payload) := by
  intro d h
  simp [wellFormed] at h
  simp [Instr.space, encode, frameWrTxpl]
  omega

theorem wireFlushTx : Statement .wireFlushTx := by
  intro d _
  simp [Instr.space, encode, frameFlushTx]

theorem wireFlushRx : Statement .wireFlushRx := by
  intro d _
  simp [Instr.space, encode, frameFlushRx]

theorem wireNop : Statement .wireNop := by
  intro d _
  simp [Instr.space, encode, frameNop]

theorem readRegister (address : Byte) : Statement (.readRegister address) := by
  intro d _
  simp [Instr.space, encode, requestBytes]

theorem writeRegister (address : Byte) (bytes : List Byte) : Statement (.writeRegister address bytes) := by
  intro d h
  simp [wellFormed] at h
  simp [Instr.space, encode, requestBytes]
  omega

theorem writeRegisterByte (address : Byte) (byte : Byte) : Statement (.writeRegisterByte address byte) := by
  intro d _
  simp [Instr.space, encode, requestBytes]

theorem readRXPayloadWidth : Statement .readRXPayloadWidth := by
  intro d _
  simp [Instr.space, encode, requestBytes]

theorem readRXPayload : Statement .readRXPayload := by
  intro d _
  simp [Instr.space, encode, requestBytes]

theorem writeTXPayload (payload : List Byte) : Statement (.writeTXPayload payload) := by
  intro d h
  simp [wellFormed] at h
  simp [Instr.space, encode, requestBytes]
  omega

theorem flushTX : Statement .flushTX := by
  intro d _
  simp [Instr.space, encode, requestBytes]

theorem flushRX : Statement .flushRX := by
  intro d _
  simp [Instr.space, encode, requestBytes]

theorem readState : Statement .readState := by
  intro d _
  simp [Instr.space, encode, requestBytes]

theorem getLastState : Statement .getLastState := by
  intro d _
  simp [Instr.space, encode, requestBytes]

theorem receive : Statement .receive := by
  intro d _
  simp [Instr.space, encode, requestBytes]

theorem transmit : Statement .transmit := by
  intro d _
  simp [Instr.space, encode, requestBytes]

theorem deactivateCE : Statement .deactivateCE := by
  intro d _
  simp [Instr.space, encode, requestBytes]

theorem processState : Statement .processState := by
  intro d _
  simp [Instr.space, encode, requestBytes]

end Sys2Proof.Laws.EncodeLength
end

