-- ==== Sys2Proof/Laws/Runs.lean ====
section
/-! SUPPORT. Everything an instruction can do, said once: what a run of successful exchanges may have changed (`Mid`), how
an operation can end (`Ends`), and that every instruction the block runs ends so. Claims over all instructions are proved
by cases on `Ends`. -/

namespace Sys2Proof.Machine

/-- The bytes are the frame of a well-formed wire command. -/
def IsFrame (d : DescTable) (tx : List Byte) : Prop :=
  ∃ i : Instr, i.space = .wire ∧ wellFormed d i = true ∧ tx = encode d i

/-- A successful exchange of a frame of the block. -/
def IsExchange (d : DescTable) (e : Event) : Prop :=
  ∃ tx rx, e = .x tx rx ∧ IsFrame d tx ∧ rx.length = tx.length

theorem wireLength {i : Instr} {d : DescTable} (hs : i.space = .wire) (hw : wellFormed d i = true) :
    1 ≤ (encode d i).length ∧ (encode d i).length ≤ 33 := by
  cases i with
  | wireRdReg a => exact (Laws.EncodeLength.wireRdReg a d hw).1 hs
  | wireWrReg a b => exact (Laws.EncodeLength.wireWrReg a b d hw).1 hs
  | wireRdRxplw => exact (Laws.EncodeLength.wireRdRxplw d hw).1 hs
  | wireRdRxpl w => exact (Laws.EncodeLength.wireRdRxpl w d hw).1 hs
  | wireWrTxpl p => exact (Laws.EncodeLength.wireWrTxpl p d hw).1 hs
  | wireFlushTx => exact (Laws.EncodeLength.wireFlushTx d hw).1 hs
  | wireFlushRx => exact (Laws.EncodeLength.wireFlushRx d hw).1 hs
  | wireNop => exact (Laws.EncodeLength.wireNop d hw).1 hs
  | _ => cases hs

theorem IsFrame.length {d : DescTable} {tx : List Byte} (h : IsFrame d tx) : 1 ≤ tx.length ∧ tx.length ≤ 33 := by
  obtain ⟨i, hs, hw, rfl⟩ := h
  exact wireLength hs hw

/-! ### The frames the operations send -/

theorem isFrame_rdReg (d : DescTable) (a : BitVec 5) : IsFrame d (frameRdReg d a) := ⟨.wireRdReg a, rfl, rfl, rfl⟩

theorem isFrame_wrReg {d : DescTable} {a : BitVec 5} {bytes : List Byte} (h : bytes.length ≤ d.sizeOf a) :
    IsFrame d (frameWrReg a bytes) := ⟨.wireWrReg a bytes, rfl, by simp [wellFormed, h], rfl⟩

theorem isFrame_rdRxplw (d : DescTable) : IsFrame d frameRdRxplw := ⟨.wireRdRxplw, rfl, rfl, rfl⟩

theorem isFrame_rdRxpl (d : DescTable) {w : Nat} (h : 1 ≤ w) (h' : w ≤ 32) : IsFrame d (frameRdRxpl w) :=
  ⟨.wireRdRxpl w, rfl, by simp [wellFormed, h, h'], rfl⟩

theorem isFrame_wrTxpl (d : DescTable) {p : List Byte} (h : 1 ≤ p.length) (h' : p.length ≤ 32) :
    IsFrame d (frameWrTxpl p) := ⟨.wireWrTxpl p, rfl, by simp [wellFormed, h, h'], rfl⟩

theorem isFrame_flushTx (d : DescTable) : IsFrame d frameFlushTx := ⟨.wireFlushTx, rfl, rfl, rfl⟩
theorem isFrame_flushRx (d : DescTable) : IsFrame d frameFlushRx := ⟨.wireFlushRx, rfl, rfl, rfl⟩
theorem isFrame_nop (d : DescTable) : IsFrame d frameNop := ⟨.wireNop, rfl, rfl, rfl⟩

theorem one_le_sizeOf (d : DescTable) (a : BitVec 5) : 1 ≤ d.sizeOf a := by
  unfold DescTable.sizeOf RegSize.bytes
  split <;> omega

/-! ### A run of successful exchanges -/

/-- The buffers hold the bytes of the current exchange and re-initialised bytes beyond them. -/
def Buffered (s : State) : Prop :=
  ∃ tx rx, s.txbuf = bufferOf tx ∧ s.rxbuf = bufferOf rx ∧ s.xlen = BitVec.ofNat 7 tx.length ∧ tx.length ≤ 33 ∧
    (rx.length = tx.length ∨ rx = [])

/-- `t` comes from `s` by successful exchanges `events`: nothing else has changed but SEQ, the transport's state and the
inputs. -/
structure Mid (s t : State) (events : List Event) : Prop where
  desc : t.desc = s.desc
  ceOut : t.ceOut = s.ceOut
  hold : t.hold = s.hold
  res : t.res = s.res
  hostIn : t.hostIn = s.hostIn
  hostOut : t.hostOut = s.hostOut
  frameIn : t.frameIn = s.frameIn
  halted : t.halted = s.halted
  op : t.seq.op = s.seq.op
  count : t.seq.k = s.seq.k + events.length
  trace : t.trace = s.trace ++ events
  exchanges : ∀ e ∈ events, IsExchange s.desc e
  status : events = [] ∧ t.lastStatus = s.lastStatus ∧ t.lsValid = s.lsValid ∧ t.txbuf = s.txbuf ∧ t.rxbuf = s.rxbuf ∧
      t.xlen = s.xlen ∨
    (events.filterMap Event.status).getLast? = some t.lastStatus ∧ t.lsValid = true ∧ Buffered t

theorem Mid.refl (s : State) : Mid s s [] where
  desc := rfl
  ceOut := rfl
  hold := rfl
  res := rfl
  hostIn := rfl
  hostOut := rfl
  frameIn := rfl
  halted := rfl
  op := rfl
  count := rfl
  trace := by simp
  exchanges := by simp
  status := .inl ⟨rfl, rfl, rfl, rfl, rfl, rfl⟩

/-- The state after one more successful exchange. -/
def moreExchange (s : State) (tx rx : List Byte) (l : List LinkAnswer) (d : Nat) : State :=
  { s with
    txbuf := bufferOf tx
    rxbuf := bufferOf rx
    xlen := BitVec.ofNat 7 tx.length
    lastStatus := statusOf rx
    lsValid := true
    seq := ⟨s.seq.op, s.seq.k + 1, .decode⟩
    link := l
    trace := s.trace ++ [.x tx rx]
    draws := d }

theorem Mid.more {s t : State} {events : List Event} (h : Mid s t events) {tx rx : List Byte} (ht : IsFrame s.desc tx)
    (hr : rx.length = tx.length) (l : List LinkAnswer) (d : Nat) :
    Mid s (moreExchange t tx rx l d) (events ++ [.x tx rx]) where
  desc := h.desc
  ceOut := h.ceOut
  hold := h.hold
  res := h.res
  hostIn := h.hostIn
  hostOut := h.hostOut
  frameIn := h.frameIn
  halted := h.halted
  op := h.op
  count := by
    have := h.count
    simp only [moreExchange, List.length_append, List.length_cons, List.length_nil]
    omega
  trace := by simp [moreExchange, h.trace]
  exchanges := by
    intro e he
    rcases List.mem_append.mp he with he | he
    · exact h.exchanges e he
    · exact ⟨tx, rx, by simpa using he, ht, hr⟩
  status := .inr ⟨by simp [moreExchange, Event.status, statusOf, Config.dummyByte], rfl, tx, rx, rfl, rfl, rfl, ht.length.2, .inl hr⟩

/-- How the block is left by an exchange that fails. -/
def failedState (s : State) (tx : List Byte) (l : List LinkAnswer) (d : Nat) : State :=
  { atLink tx s with link := l, draws := d, trace := s.trace ++ [.xfail tx] }

/-- How the block is left by an exchange that stalls. -/
def stalledState (s : State) (tx : List Byte) (l : List LinkAnswer) (d : Nat) : State :=
  { atLink tx s with link := l, draws := d }

/-- The ends an exchange itself can bring about, after the exchanges `events`. -/
inductive Broken (s : State) : State → Prop where
  | failed {t : State} {events : List Event} (h : Mid s t events) {tx : List Byte} (ht : IsFrame s.desc tx)
      (l : List LinkAnswer) (d : Nat) (hn : events.length ≤ 2) : Broken s (raise .transport (failedState t tx l d))
  | stalled {t : State} {events : List Event} (h : Mid s t events) {tx : List Byte} (ht : IsFrame s.desc tx)
      (l : List LinkAnswer) (d : Nat) (hn : events.length ≤ 2) : Broken s (stalledState t tx l d)
  | width {t : State} {events : List Event} (h : Mid s t events) (hn : events.length ≤ 3) :
      Broken s (faultRxWidth t)

/-- What a part of an operation that makes at most `n` exchanges after `m` others can be. -/
def Run.Sound {α : Type} (s : State) (n : Nat) (ok : α → Prop) (r : Run α) : Prop :=
  (∃ t events a, r = .on t a ∧ Mid s t events ∧ events.length ≤ n ∧ ok a) ∨ ∃ t, r = .over t ∧ Broken s t

theorem exchange_sound {s t : State} {events : List Event} (h : Mid s t events) {tx : List Byte}
    (ht : IsFrame s.desc tx) (hn : events.length ≤ 2) :
    (exchange tx t).Sound s (events.length + 1) fun rx => rx.length = tx.length := by
  obtain ⟨l, d, hx⟩ := exchange_cases (tx := tx) (by have := ht.length; omega) t
  rcases hx with ⟨rx, hr, hx⟩ | hx | hx
  · exact .inl ⟨moreExchange t tx rx l d, _, rx, hx, h.more ht hr l d, by simp, hr⟩
  · exact .inr ⟨_, hx, .failed h ht l d hn⟩
  · exact .inr ⟨_, hx, .stalled h ht l d hn⟩

theorem Run.Sound.map {α β : Type} {s : State} {n : Nat} {ok : α → Prop} {ok' : β → Prop} {r : Run α} {f : α → β}
    (h : r.Sound s n ok) (hf : ∀ a, ok a → ok' (f a)) : (r.map f).Sound s n ok' := by
  rcases h with ⟨t, ev, a, rfl, hm, hn, ha⟩ | ⟨t, rfl, hb⟩
  · exact .inl ⟨t, ev, f a, rfl, hm, hn, hf a ha⟩
  · exact .inr ⟨t, rfl, hb⟩

theorem runRdReg_sound {s t : State} {events : List Event} (h : Mid s t events) (a : BitVec 5)
    (hn : events.length ≤ 2) :
    (runRdReg a t).Sound s (events.length + 1) fun bytes => bytes.length = s.desc.sizeOf a := by
  refine Run.Sound.map (exchange_sound h (h.desc ▸ isFrame_rdReg t.desc a) hn) ?_
  intro rx hr
  simp [dataOf, hr, frameRdReg, h.desc]

theorem runWrReg_sound {s t : State} {events : List Event} (h : Mid s t events) {a : BitVec 5} {bytes : List Byte}
    (hb : bytes.length ≤ s.desc.sizeOf a) (hn : events.length ≤ 2) :
    (runWrReg a bytes t).Sound s (events.length + 1) fun _ => True :=
  Run.Sound.map (exchange_sound h (isFrame_wrReg hb) hn) fun _ _ => trivial

theorem runNop_sound (s : State) : (runNop s).Sound s 1 fun _ => True :=
  Run.Sound.map (exchange_sound (Mid.refl s) (isFrame_nop s.desc) (by simp)) fun _ _ => trivial

theorem runRdRxplw_sound {s t : State} {events : List Event} (h : Mid s t events) (hn : events.length ≤ 2) :
    (runRdRxplw t).Sound s (events.length + 1) fun _ => True :=
  Run.Sound.map (exchange_sound h (isFrame_rdRxplw s.desc) hn) fun _ _ => trivial

theorem runReadRXPayload_sound {s t : State} {events : List Event} (h : Mid s t events) (hn : events.length ≤ 1) :
    (runReadRXPayload t).Sound s 3 fun payload => payload.length ≤ 32 := by
  unfold runReadRXPayload
  rcases runRdRxplw_sound h (by omega) with ⟨u, ev, w, hr, hm, hl, -⟩ | ⟨u, hr, hb⟩
  · rw [hr, Run.bind_on]
    by_cases h0 : w = 0
    · rw [if_pos h0]
      exact .inl ⟨u, ev, [], rfl, hm, by omega, by simp⟩
    · rw [if_neg h0]
      by_cases h1 : w.toNat > 32
      · rw [if_pos h1]
        exact .inr ⟨_, rfl, .width hm (by omega)⟩
      · rw [if_neg h1]
        have hw : 1 ≤ w.toNat := by
          rcases Nat.eq_zero_or_pos w.toNat with h2 | h2
          · exact absurd (BitVec.eq_of_toNat_eq (by simpa using h2)) h0
          · exact h2
        rcases Run.Sound.map (f := dataOf) (ok' := fun p : List Byte => p.length ≤ 32)
            (exchange_sound hm (isFrame_rdRxpl s.desc hw (by omega)) (by omega))
            (by intro rx hrx; simp [dataOf, hrx, frameRdRxpl]; omega) with ⟨v, ev', p, h2, hm', hl', hp⟩ | h2
        · exact .inl ⟨v, ev', p, h2, hm', by omega, hp⟩
        · exact .inr h2
  · rw [hr, Run.bind_over]
    exact .inr ⟨u, rfl, hb⟩

/-! ### How an operation ends -/

/-- The CE level an instruction commands, if it is one that commands a level (10_state R27). -/
def commanded : Instr → Option Bool
  | .receive => some true
  | .transmit => some true
  | .deactivateCE => some false
  | _ => none

/-- The ends of a host operation that starts in `s`; `level` is the CE level it commands. -/
inductive Ends (s : State) (level : Option Bool) : State → Prop where
  /-- A success, with a sequence result. -/
  | done {t : State} {events : List Event} (h : Mid s t events) (hn : events.length ≤ 3) {data : List Byte}
      (hd : data.length ≤ 32) : Ends s level (complete data t)
  /-- A success of a poll. -/
  | polled {t : State} {events : List Event} (h : Mid s t events) (hn : events.length ≤ 3) {r : PollResult}
      (hd : r.payload.length ≤ 32) : Ends s level (completePoll r t)
  /-- A failure, a stall or a width fault. -/
  | broken {t : State} (h : Broken s t) : Ends s level t
  /-- An error found before any exchange. -/
  | refused (e : ErrKind) : Ends s level (raise e s)
  /-- A mode transition. -/
  | raisedCE {t : State} {events : List Event} (h : Mid s t events) (hn : events.length ≤ 3)
      (hl : level = some true) : Ends s level (complete [] (assertCE t))
  /-- `deactivateCE`. -/
  | loweredCE (hl : level = some false) : Ends s level (complete [] (deassertCE s))

theorem Run.Sound.ends {α : Type} {s : State} {l : Option Bool} {n : Nat} {ok : α → Prop} {r : Run α} {f : State → α → State}
    (h : r.Sound s n ok)
    (hf : ∀ t events a, Mid s t events → events.length ≤ n → ok a → Ends s l (f t a)) : Ends s l (r.close f) := by
  rcases h with ⟨t, ev, a, rfl, hm, hn, ha⟩ | ⟨t, rfl, hb⟩
  · exact hf t ev a hm hn ha
  · exact .broken hb

theorem writeRegisterBody_ends (l : Option Bool) (address : Byte) (bytes : List Byte) (s : State) :
    Ends s l (writeRegisterBody address bytes s) := by
  unfold writeRegisterBody validateWrite
  by_cases h1 : address.toNat > 31
  · rw [if_pos h1]; exact .refused _
  · rw [if_neg h1]
    by_cases h2 : bytes.length > s.desc.sizeOf (addressField address)
    · rw [if_pos h2]; exact .refused _
    · rw [if_neg h2]
      exact (runWrReg_sound (Mid.refl s) (by omega) (by simp)).ends fun t ev _ hm hn _ =>
        .done hm (by simp at hn; omega) (by simp)

theorem changeMode_ends (f : Byte → Byte) (s : State) : Ends s (some true) (changeMode f s) := by
  unfold changeMode
  rcases runRdReg_sound (Mid.refl s) 0 (by simp) with ⟨t, ev, b, hr, hm, hn, -⟩ | ⟨t, hr, hb⟩
  · rw [hr, Run.bind_on]
    have h1 := one_le_sizeOf s.desc 0
    exact (runWrReg_sound hm (by simpa using h1) (by simp at hn; omega)).ends fun u ev' _ hm' hn' _ =>
      .raisedCE hm' (by simp at hn; omega) rfl
  · rw [hr, Run.bind_over]
    exact .broken hb

theorem pollWith_ends {s t : State} {l : Option Bool} {events : List Event} (h : Mid s t events) (hn : events.length ≤ 1) (b : Byte) :
    Ends s l (pollWith b t) := by
  have hl : events.length ≤ 3 := by omega
  unfold pollWith
  cases pollArm b with
  | received =>
    exact (runReadRXPayload_sound h hn).ends fun w ev' p hm' hn' hp' =>
      .polled hm' hn' (by simpa [PollResult.payload] using hp')
  | sent => exact .polled h hl (by simp [PollResult.payload])
  | retransmitLimitExceeded => exact .polled h hl (by simp [PollResult.payload])
  | idle => exact .polled h hl (by simp [PollResult.payload])

theorem processStateBody_ends (l : Option Bool) (s : State) : Ends s l (processStateBody s) :=
  (runNop_sound s).ends fun _ _ b hm hn _ => pollWith_ends hm hn b

/-- Every host operation an idle block runs ends in one of the ways of `Ends`, from the state in which SEQ names it. -/
theorem exec_host_ends {i : Instr} {s t : State} (hs : i.space = .host) (hp : s.seq.phase = .idle)
    (h : exec i s = .next t) : s.halted = none ∧ ∃ op, Ends (s.setSeq ⟨some op, 0, .check⟩) (commanded i) t := by
  have key : ∀ (op : HostOp) (body : State → State), accept op body s = .next t → (∀ u, Ends u (commanded i) (body u)) →
      s.halted = none ∧ ∃ op, Ends (s.setSeq ⟨some op, 0, .check⟩) (commanded i) t := by
    intro op body ha hb
    obtain ⟨hh, ⟨-, rfl⟩ | ⟨hq, -⟩⟩ := accept_cases ha
    · exact ⟨hh, op, hb _⟩
    · exact absurd hp hq
  have one : ∀ {u : State} {tx : List Byte}, IsFrame u.desc tx →
      Ends u (commanded i) ((exchange tx u).close fun v _ => complete [] v) := fun hf =>
    (exchange_sound (Mid.refl _) hf (by simp)).ends fun v ev _ hm hn _ => .done hm (by simp at hn; omega) (by simp)
  cases i with
  | readRegister address =>
    refine key _ (readRegisterBody address) h fun u => ?_
    unfold readRegisterBody validateRead
    by_cases h1 : address.toNat > 31
    · rw [if_pos h1]; exact .refused _
    · rw [if_neg h1]
      refine (runRdReg_sound (Mid.refl u) _ (by simp)).ends fun v ev b hm hn hb => .done hm (by simp at hn; omega) ?_
      have := Laws.EncodeLength.sizeOf_le u.desc (addressField address)
      omega
  | writeRegister address bytes => exact key _ _ h (writeRegisterBody_ends _ address bytes)
  | writeRegisterByte address byte => exact key _ _ h (writeRegisterBody_ends _ address [byte])
  | readRXPayloadWidth =>
    exact key _ readRXPayloadWidthBody h fun u => (runRdRxplw_sound (Mid.refl u) (by simp)).ends fun v ev w hm hn _ =>
      .done hm (by simp at hn; omega) (by simp)
  | readRXPayload =>
    exact key _ readRXPayloadBody h fun u => (runReadRXPayload_sound (Mid.refl u) (by simp)).ends
      fun v ev p hm hn hp' => .done hm hn hp'
  | writeTXPayload payload =>
    refine key _ (writeTXPayloadBody payload) h fun u => ?_
    unfold writeTXPayloadBody validatePayload
    by_cases h1 : payload.length < 1 ∨ payload.length > 32
    · rw [if_pos h1]; exact .refused _
    · rw [if_neg h1]
      exact one (isFrame_wrTxpl u.desc (by omega) (by omega))
  | flushTX => exact key _ flushTXBody h fun u => one (isFrame_flushTx u.desc)
  | flushRX => exact key _ flushRXBody h fun u => one (isFrame_flushRx u.desc)
  | readState =>
    exact key _ readStateBody h fun u => (runNop_sound u).ends fun v ev _ hm hn _ => .done hm (by omega) (by simp)
  | getLastState => exact key _ (complete []) h fun u => .done (Mid.refl u) (by simp) (by simp)
  | receive => exact key _ _ h (changeMode_ends receiveConfig)
  | transmit => exact key _ _ h (changeMode_ends transmitConfig)
  | deactivateCE => exact key _ deactivateCEBody h fun u => .loweredCE rfl
  | processState => exact key _ processStateBody h (processStateBody_ends _)
  | _ => cases hs

/-- The ends of a wire command run by itself. -/
inductive WireEnds (s : State) : State → Prop where
  | done {t : State} {events : List Event} (h : Mid s t events) (hn : events.length ≤ 1) :
      WireEnds s (t.setSeq Seq.rest)
  | broken {t : State} (h : Broken s t) : WireEnds s t

/-- Every wire command an idle block runs ends in one of the ways of `WireEnds`. -/
theorem exec_wire_ends {i : Instr} {s t : State} (hs : i.space = .wire) (hp : s.seq.phase = .idle)
    (h : exec i s = .next t) : s.halted = none ∧ WireEnds (s.setSeq ⟨none, 0, .frame⟩) t := by
  have ha : acceptFrame i s = .next t := by
    cases i <;> first | exact h | cases hs
  obtain ⟨hh, hw, ⟨-, rfl⟩ | ⟨hq, -⟩⟩ := acceptFrame_cases ha
  · refine ⟨hh, ?_⟩
    unfold sendFrame
    rcases exchange_sound (Mid.refl (s.setSeq ⟨none, 0, .frame⟩)) ⟨i, hs, hw, rfl⟩ (by simp) with
      ⟨u, ev, a, hr, hm, hn, -⟩ | ⟨u, hr, hb⟩
    · rw [show encode (s.setSeq ⟨none, 0, .frame⟩).desc i = encode s.desc i from rfl] at hr
      rw [hr, Run.close_on]
      exact .done hm (by simpa using hn)
    · rw [show encode (s.setSeq ⟨none, 0, .frame⟩).desc i = encode s.desc i from rfl] at hr
      rw [hr, Run.close_over]
      exact .broken hb
  · exact absurd hp hq

/-- An instruction run on a busy block changes nothing. -/
theorem exec_busy {i : Instr} {s t : State} (hp : s.seq.phase ≠ .idle) (h : exec i s = .next t) : t = s := by
  have key : ∀ (op : HostOp) (body : State → State), accept op body s = .next t → t = s := by
    intro op body ha
    obtain ⟨-, ⟨hq, -⟩ | ⟨-, rfl⟩⟩ := accept_cases ha
    · exact absurd hq hp
    · rfl
  have key' : acceptFrame i s = .next t → t = s := by
    intro ha
    obtain ⟨-, -, ⟨hq, -⟩ | ⟨-, rfl⟩⟩ := acceptFrame_cases ha
    · exact absurd hq hp
    · rfl
  cases i with
  | readRegister address => exact key _ (readRegisterBody address) h
  | writeRegister address bytes => exact key _ (writeRegisterBody address bytes) h
  | writeRegisterByte address byte => exact key _ (writeRegisterBody address [byte]) h
  | readRXPayloadWidth => exact key _ readRXPayloadWidthBody h
  | readRXPayload => exact key _ readRXPayloadBody h
  | writeTXPayload payload => exact key _ (writeTXPayloadBody payload) h
  | flushTX => exact key _ flushTXBody h
  | flushRX => exact key _ flushRXBody h
  | readState => exact key _ readStateBody h
  | getLastState => exact key _ (complete []) h
  | receive => exact key _ (changeMode receiveConfig) h
  | transmit => exact key _ (changeMode transmitConfig) h
  | deactivateCE => exact key _ deactivateCEBody h
  | processState => exact key _ processStateBody h
  | _ => exact key' h

/-! ### How a step goes -/

/-- Everything a step that answers a next state can have done. -/
inductive Stepped (s : State) : State → Prop where
  /-- Nothing: the block waits, or is held by an operation. -/
  | stays : Stepped s s
  /-- The host took the response. -/
  | taken (hp : s.seq.phase = .done) : Stepped s (takeResponse s)
  /-- A request that selects no operation. -/
  | illegal (hp : s.seq.phase = .idle) (rest : List Byte) : Stepped s (illegalOperation (s.setHostIn rest))
  /-- A request ran. -/
  | request (hp : s.seq.phase = .idle) {i : Instr} (rest : List Byte) {t : State}
      (h : exec i (s.setHostIn rest) = .next t) : Stepped s t
  /-- A prepared frame ran. -/
  | frame (hp : s.seq.phase = .idle) {i : Instr} {t : State} (h : exec i (s.setFrameIn []) = .next t) : Stepped s t

theorem step_cases {s t : State} (h : step s = .next t) : s.halted = none ∧ Stepped s t := by
  unfold step cycle at h
  split at h
  · cases h
  rename_i hh
  refine ⟨hh, ?_⟩
  split at h
  · rename_i hp
    unfold fetch at h
    by_cases hf : s.frameIn = []
    · rw [if_pos hf, fetchRequest] at h
      cases hd : decodeRequest s.hostIn with
      | request i rest =>
        simp only [hd] at h
        exact .request hp rest h
      | illegal op rest =>
        simp only [hd] at h
        cases h
        exact .illegal hp rest
      | incomplete =>
        simp only [hd] at h
        cases h
        exact .stays
    · rw [if_neg hf, fetchFrame] at h
      cases hd : decodeFrame s.desc s.frameIn with
      | command i =>
        simp only [hd] at h
        exact .frame hp h
      | notCommand b =>
        simp only [hd] at h
        cases h
      | malformed =>
        simp only [hd] at h
        cases h
  · rename_i hp
    cases h
    exact .taken hp
  all_goals
    cases h
    exact .stays

end Sys2Proof.Machine
end

