-- ==== Sys2Proof/Laws/Changes.lean ====
section
/-! SUPPORT. Everything a step can change, said once (`exec_changed`, `step_changed`): the trace it adds, the latch, the
buffers, CE_OUT, HOLD, RES, the fault and SEQ. Claims about every step cite these two. -/

namespace Sys2Proof.Machine

/-- The events that may follow the exchanges of one step: none, one failed exchange, or one CE event. -/
inductive Tail (d : DescTable) : List Event → Prop where
  | none : Tail d []
  | fail {tx : List Byte} (h : IsFrame d tx) : Tail d [.xfail tx]
  | ce (level : Bool) : Tail d [.ce level]

/-- What one step may change, apart from SEQ. -/
structure Changed (s t : State) : Prop where
  desc : t.desc = s.desc
  trace : ∃ events last, t.trace = s.trace ++ (events ++ last) ∧ (∀ e ∈ events, IsExchange s.desc e) ∧
    Tail s.desc last ∧ events.length ≤ 3 ∧ (∀ tx, last = [.xfail tx] → events.length ≤ 2) ∧
    (events = [] ∧ t.lastStatus = s.lastStatus ∧ t.lsValid = s.lsValid ∨
      (events.filterMap Event.status).getLast? = some t.lastStatus ∧ t.lsValid = true) ∧
    (t.ceOut = s.ceOut ∧ (∀ l, last ≠ [.ce l]) ∨ ∃ l, last = [.ce l] ∧ t.ceOut = l)
  buffers : t.txbuf = s.txbuf ∧ t.rxbuf = s.rxbuf ∧ t.xlen = s.xlen ∨ Buffered t
  hold : t.hold = s.hold ∨ t.hold = 0
  res : t.res = s.res ∨ t.ResSound
  halted : t.halted = s.halted ∨ t.seq.phase = .done ∧ t.res.err = 6

/-- SEQ after an operation: DONE or stalled in XCHG, at most three exchanges counted. -/
def Finished (t : State) : Prop :=
  (t.seq.phase = .done ∨ t.seq.phase = .xchg) ∧ t.seq.k ≤ 3

theorem Mid.latched {s t : State} {events : List Event} (h : Mid s t events) :
    events = [] ∧ t.lastStatus = s.lastStatus ∧ t.lsValid = s.lsValid ∨
      (events.filterMap Event.status).getLast? = some t.lastStatus ∧ t.lsValid = true := by
  rcases h.status with ⟨a, b, c, -⟩ | ⟨a, b, -⟩
  · exact .inl ⟨a, b, c⟩
  · exact .inr ⟨a, b⟩

theorem Mid.buffers {s t : State} {events : List Event} (h : Mid s t events) :
    t.txbuf = s.txbuf ∧ t.rxbuf = s.rxbuf ∧ t.xlen = s.xlen ∨ Buffered t := by
  rcases h.status with ⟨-, -, -, d⟩ | ⟨-, -, c⟩
  · exact .inl d
  · exact .inr c

/-- A state that has made only the exchanges of a run, and whose RES, HOLD and fault are accounted for. -/
theorem Mid.changed {s t u : State} {events : List Event} (h : Mid s t events) (hn : events.length ≤ 3)
    (h1 : u.desc = t.desc) (h2 : u.trace = t.trace) (h3 : u.lastStatus = t.lastStatus) (h4 : u.lsValid = t.lsValid)
    (h5 : u.ceOut = t.ceOut) (h6 : (u.txbuf = t.txbuf ∧ u.rxbuf = t.rxbuf ∧ u.xlen = t.xlen) ∨ Buffered u)
    (h7 : u.hold = t.hold) (h8 : u.res = t.res ∨ u.ResSound)
    (h9 : u.halted = t.halted ∨ u.seq.phase = .done ∧ u.res.err = 6) : Changed s u where
  desc := h1.trans h.desc
  trace := ⟨events, [], by rw [h2, h.trace, List.append_nil], h.exchanges, .none, hn, (fun _ h => nomatch h),
    by rw [h3, h4]; exact h.latched, .inl ⟨h5.trans h.ceOut, (fun _ h => nomatch h)⟩⟩
  buffers := by
    rcases h6 with ⟨a, b, c⟩ | a
    · rcases h.buffers with d | ⟨tx, rx, d, e, f, g⟩
      · exact .inl ⟨a.trans d.1, b.trans d.2.1, c.trans d.2.2⟩
      · exact .inr ⟨tx, rx, a.trans d, b.trans e, c.trans f, g⟩
    · exact .inr a
  hold := .inl (h7.trans h.hold)
  res := h8.imp (·.trans h.res) id
  halted := h9.imp (·.trans h.halted) id

theorem respond_sound {err event : Byte} {pipe : Option Byte} {data : List Byte} {s : State} (h1 : err.toNat ≤ 6)
    (h2 : event.toNat ≤ 3) (h3 : data.length ≤ 32) (h4 : err ≠ 0 → event = 0 ∧ data = [])
    (h5 : event ≠ 0 → event ≠ 1 → data = []) : (respond err event pipe data s).ResSound := by
  refine ⟨h1, h2, ?_, ?_, ?_⟩
  · rw [respond_len, BitVec.toNat_ofNat]; omega
  · intro h; obtain ⟨a, b⟩ := h4 h; subst b; exact ⟨a, rfl⟩
  · intro a b; rw [respond_len, h5 a b]; rfl

theorem raise_sound (e : ErrKind) (s : State) : (raise e s).ResSound :=
  respond_sound (by cases e <;> decide) (by decide) (by simp) (fun _ => ⟨rfl, rfl⟩) fun _ _ => rfl

theorem complete_sound {data : List Byte} (h : data.length ≤ 32) (s : State) : (complete data s).ResSound :=
  respond_sound (by decide) (by decide) h (fun h => absurd rfl h) fun h => absurd rfl h

theorem completePoll_sound {r : PollResult} (h : r.payload.length ≤ 32) (s : State) : (completePoll r s).ResSound :=
  respond_sound (by decide) (by cases r <;> simp [PollResult.tag]) h (fun h => absurd rfl h)
    (by cases r <;> simp [PollResult.tag, PollResult.payload])

theorem buffered_of {d : DescTable} {tx : List Byte} (h : IsFrame d tx) {t : State} (h1 : t.txbuf = bufferOf tx)
    (h2 : t.rxbuf = bufferOf []) (h3 : t.xlen = BitVec.ofNat 7 tx.length) : Buffered t :=
  ⟨tx, [], h1, h2, h3, h.length.2, .inr rfl⟩

theorem Broken.changed {s t : State} (h : Broken s t) : Changed s t := by
  cases h with
  | @failed u events h tx ht l d hn =>
    exact
      { desc := h.desc
        trace := ⟨events, [.xfail tx], by rw [← List.append_assoc, ← h.trace]; rfl, h.exchanges, .fail ht, by omega,
          fun _ _ => hn, h.latched, .inl ⟨h.ceOut, (fun _ h => nomatch h)⟩⟩
        buffers := .inr (buffered_of ht rfl rfl rfl)
        hold := .inl h.hold
        res := .inr (raise_sound .transport _)
        halted := .inl h.halted }
  | @stalled u events h tx ht l d hn =>
    exact h.changed (by omega) rfl rfl rfl rfl rfl (.inr (buffered_of ht rfl rfl rfl)) rfl (.inl rfl) (.inl rfl)
  | @width u events h hn =>
    exact h.changed hn rfl rfl rfl rfl rfl (.inl ⟨rfl, rfl, rfl⟩) rfl (.inr (raise_sound .rxWidth u)) (.inr ⟨rfl, rfl⟩)

theorem Broken.finished {s t : State} (h0 : s.seq.k = 0) (h : Broken s t) : Finished t := by
  cases h with
  | @failed u events h tx ht l d hn =>
    exact ⟨.inl rfl, by show u.seq.k ≤ 3; rw [h.count]; omega⟩
  | @stalled u events h tx ht l d hn =>
    exact ⟨.inr rfl, by show u.seq.k ≤ 3; rw [h.count]; omega⟩
  | @width u events h hn =>
    exact ⟨.inl rfl, by show u.seq.k ≤ 3; rw [h.count]; omega⟩

/-- `AssertCE` field by field. -/
theorem assertCE_eq (s : State) :
    assertCE s =
      { s with ceOut := true, hold := 0, trace := s.trace ++ [.ce true], seq := ⟨s.seq.op, s.seq.k, .ceHold⟩ } := rfl

/-- `DeassertCE` field by field. -/
theorem deassertCE_eq (s : State) :
    deassertCE s =
      { s with ceOut := false, trace := s.trace ++ [.ce false], seq := ⟨s.seq.op, s.seq.k, .ceDrive⟩ } := rfl

/-- How the block is left by a mode transition. -/
theorem complete_assertCE (u : State) :
    complete [] (assertCE u) =
      { u with
        ceOut := true
        hold := 0
        trace := u.trace ++ [.ce true]
        seq := ⟨u.seq.op, u.seq.k, .done⟩
        res := (complete [] (assertCE u)).res
        draws := u.draws + 34 } := by
  have h := respond_eq 0 0 none [] (assertCE u)
  rw [assertCE_eq] at h ⊢
  exact h

/-- How the block is left by `deactivateCE`. -/
theorem complete_deassertCE (u : State) :
    complete [] (deassertCE u) =
      { u with
        ceOut := false
        trace := u.trace ++ [.ce false]
        seq := ⟨u.seq.op, u.seq.k, .done⟩
        res := (complete [] (deassertCE u)).res
        draws := u.draws + 34 } := by
  have h := respond_eq 0 0 none [] (deassertCE u)
  rw [deassertCE_eq] at h ⊢
  exact h

theorem Ends.changed {s t : State} {l : Option Bool} (h : Ends s l t) : Changed s t := by
  cases h with
  | @done u events h hn data hd =>
    exact h.changed hn rfl rfl rfl rfl rfl (.inl ⟨rfl, rfl, rfl⟩) rfl (.inr (complete_sound hd u)) (.inl rfl)
  | @polled u events h hn r hd =>
    exact h.changed hn rfl rfl rfl rfl rfl (.inl ⟨rfl, rfl, rfl⟩) rfl (.inr (completePoll_sound hd u)) (.inl rfl)
  | broken h => exact h.changed
  | refused e =>
    exact (Mid.refl s).changed (by simp) rfl rfl rfl rfl rfl (.inl ⟨rfl, rfl, rfl⟩) rfl (.inr (raise_sound e s))
      (.inl rfl)
  | @raisedCE u events h hn hl =>
    have hr : (complete [] (assertCE u)).ResSound := complete_sound (by simp) (assertCE u)
    have e := complete_assertCE u
    generalize (complete [] (assertCE u)).res = r at e
    rw [e] at hr ⊢
    exact
      { desc := h.desc
        trace := ⟨events, [.ce true], by rw [← List.append_assoc, ← h.trace], h.exchanges, .ce true, hn,
          (fun _ h => nomatch h), h.latched, .inr ⟨true, rfl, rfl⟩⟩
        buffers := h.buffers
        hold := .inr rfl
        res := .inr hr
        halted := .inl h.halted }
  | loweredCE hl =>
    have hr : (complete [] (deassertCE s)).ResSound := complete_sound (by simp) (deassertCE s)
    have e := complete_deassertCE s
    generalize (complete [] (deassertCE s)).res = r at e
    rw [e] at hr ⊢
    exact
      { desc := rfl
        trace := ⟨[], [.ce false], rfl, by simp, .ce false, by simp, (fun _ h => nomatch h), .inl ⟨rfl, rfl, rfl⟩,
          .inr ⟨false, rfl, rfl⟩⟩
        buffers := .inl ⟨rfl, rfl, rfl⟩
        hold := .inl rfl
        res := .inr hr
        halted := .inl rfl }

theorem Ends.finished {s t : State} {l : Option Bool} (h0 : s.seq.k = 0) (h : Ends s l t) : Finished t := by
  cases h with
  | @done u events h hn data hd => exact ⟨.inl rfl, by show u.seq.k ≤ 3; rw [h.count]; omega⟩
  | @polled u events h hn r hd => exact ⟨.inl rfl, by show u.seq.k ≤ 3; rw [h.count]; omega⟩
  | broken h => exact h.finished h0
  | refused e => exact ⟨.inl rfl, by show s.seq.k ≤ 3; omega⟩
  | @raisedCE u events h hn hl => exact ⟨.inl rfl, by show u.seq.k ≤ 3; rw [h.count]; omega⟩
  | loweredCE hl => exact ⟨.inl rfl, by show s.seq.k ≤ 3; omega⟩

/-- What an instruction changes does not depend on what SEQ, the ports or the count of free values held before. -/
theorem Changed.of {s s' t : State} (h : Changed s' t) (h1 : s'.desc = s.desc) (h2 : s'.trace = s.trace)
    (h3 : s'.lastStatus = s.lastStatus) (h4 : s'.lsValid = s.lsValid) (h5 : s'.ceOut = s.ceOut)
    (h6 : s'.txbuf = s.txbuf) (h7 : s'.rxbuf = s.rxbuf) (h8 : s'.xlen = s.xlen) (h9 : s'.hold = s.hold)
    (h10 : s'.res = s.res) (h11 : s'.halted = s.halted) : Changed s t := by
  obtain ⟨a, b, c, d, e, f⟩ := h
  rw [h1] at a b
  rw [h2, h3, h4, h5] at b
  rw [h6, h7, h8] at c
  rw [h9] at d
  rw [h10] at e
  rw [h11] at f
  exact ⟨a, b, c, d, e, f⟩

theorem Changed.refl (s : State) : Changed s s :=
  (Mid.refl s).changed (by simp) rfl rfl rfl rfl rfl (.inl ⟨rfl, rfl, rfl⟩) rfl (.inl rfl) (.inl rfl)

/-- What an instruction that answers a next state changes. -/
theorem exec_changed {i : Instr} {s t : State} (h : exec i s = .next t) :
    Changed s t ∧ (t.seq = s.seq ∨ t.seq = Seq.rest ∨ Finished t) := by
  by_cases hp : s.seq.phase = .idle
  · cases hs : i.space with
    | host =>
      obtain ⟨-, op, he⟩ := exec_host_ends hs hp h
      exact ⟨he.changed.of rfl rfl rfl rfl rfl rfl rfl rfl rfl rfl rfl, .inr (.inr (he.finished rfl))⟩
    | wire =>
      obtain ⟨-, he⟩ := exec_wire_ends hs hp h
      cases he with
      | @done u events hm hn =>
        refine ⟨Changed.of (s' := s.setSeq ⟨none, 0, .frame⟩) ?_ rfl rfl rfl rfl rfl rfl rfl rfl rfl rfl rfl,
          .inr (.inl rfl)⟩
        exact hm.changed (by omega) rfl rfl rfl rfl rfl (.inl ⟨rfl, rfl, rfl⟩) rfl (.inl rfl) (.inl rfl)
      | broken hb =>
        exact ⟨hb.changed.of rfl rfl rfl rfl rfl rfl rfl rfl rfl rfl rfl, .inr (.inr (hb.finished rfl))⟩
  · rw [exec_busy hp h]
    exact ⟨Changed.refl s, .inl rfl⟩

/-- What a step that answers a next state changes. -/
theorem step_changed {s t : State} (h : step s = .next t) :
    Changed s t ∧ (t.seq = s.seq ∨ t.seq = Seq.rest ∨ Finished t) := by
  obtain ⟨-, hs⟩ := step_cases h
  cases hs with
  | stays => exact ⟨Changed.refl s, .inl rfl⟩
  | taken hp =>
    exact ⟨(Mid.refl s).changed (by simp) rfl rfl rfl rfl rfl (.inl ⟨rfl, rfl, rfl⟩) rfl (.inl rfl) (.inl rfl),
      .inr (.inl rfl)⟩
  | illegal hp rest =>
    exact ⟨(Mid.refl s).changed (by simp) rfl rfl rfl rfl rfl (.inl ⟨rfl, rfl, rfl⟩) rfl
      (.inr (raise_sound .illegalOperation _)) (.inl rfl), .inr (.inr ⟨.inl rfl, Nat.zero_le 3⟩)⟩
  | request hp rest h =>
    exact ⟨(exec_changed h).1.of rfl rfl rfl rfl rfl rfl rfl rfl rfl rfl rfl, (exec_changed h).2⟩
  | frame hp h => exact ⟨(exec_changed h).1.of rfl rfl rfl rfl rfl rfl rfl rfl rfl rfl rfl, (exec_changed h).2⟩

end Sys2Proof.Machine
end

