-- ==== Sys2Proof/Laws/Starts.lean ====
section
/-! SUPPORT. How an instruction begins: the first frame it sends, if it sends one, and that a busy block ignores every
instruction. -/

namespace Sys2Proof.Machine

theorem Run.map_close {α β : Type} (r : Run α) (f : α → β) (g : State → β → State) :
    (r.map f).close g = r.close fun s a => g s (f a) := by cases r <;> rfl

theorem Run.bind_close {α β : Type} (r : Run α) (f : State → α → Run β) (g : State → β → State) :
    (r.bind f).close g = r.close fun s a => (f s a).close g := by cases r <;> rfl

/-- The opcode byte of a read is the address itself (30_encoding R82, R91). -/
theorem opcodeByteWA_read :
    ∀ address : Byte, address.toNat ≤ 31 → opcodeByteWA 0 (addressField address) = address := by decide

/-- The opcode byte of a write is the address with bit 5 set (30_encoding R82, R91). -/
theorem opcodeByteWA_write :
    ∀ address : Byte, address.toNat ≤ 31 → opcodeByteWA 1 (addressField address) = 0x20 ||| address := by decide

theorem validateWrite_ok {d : DescTable} {address : Byte} {bytes : List Byte} (ha : address.toNat ≤ 31)
    (hb : bytes.length ≤ d.sizeOf (addressField address)) : validateWrite d address bytes = .ok () := by
  rw [validateWrite, if_neg (by omega), if_neg (by omega)]

/-- What an instruction that sends a first frame is: a host operation whose body is that exchange and what it does with
the answer, or a well-formed wire command. -/
theorem firstFrame_starts {d : DescTable} {i : Instr} {tx : List Byte} (h : firstFrame d i = some tx) :
    IsFrame d tx ∧
      ((i.space = .host ∧ ∃ op body, (∀ s, exec i s = accept op body s) ∧ runningOp i = some op ∧
          ∀ u : State, u.desc = d → ∃ g, body u = (exchange tx u).close g) ∨
        (i.space = .wire ∧ wellFormed d i = true ∧ tx = encode d i ∧ runningOp i = none ∧
          ∀ s, exec i s = acceptFrame i s)) := by
  have o0 : ∀ a : BitVec 5, opcodeByteWA 0 a = a.setWidth 8 := by decide
  have o1 : ∀ a : BitVec 5, opcodeByteWA 1 a = 0x20 ||| a.setWidth 8 := by decide
  cases i with
  | wireRdReg a =>
    have : tx = frameRdReg d a := by simp only [firstFrame, Option.some.injEq] at h; rw [← h, frameRdReg, o0]
    subst this; exact ⟨isFrame_rdReg d a, .inr ⟨rfl, rfl, rfl, rfl, fun _ => rfl⟩⟩
  | wireWrReg a b =>
    simp only [firstFrame] at h
    split at h
    · rename_i hb
      have : tx = frameWrReg a b := by rw [← Option.some.inj h, frameWrReg, o1]
      subst this; exact ⟨isFrame_wrReg hb, .inr ⟨rfl, by simp [wellFormed, hb], rfl, rfl, fun _ => rfl⟩⟩
    · cases h
  | wireRdRxplw => cases h; exact ⟨isFrame_rdRxplw d, .inr ⟨rfl, rfl, rfl, rfl, fun _ => rfl⟩⟩
  | wireRdRxpl w =>
    simp only [firstFrame] at h
    split at h
    · rename_i hb; cases h
      exact ⟨isFrame_rdRxpl d hb.1 hb.2,
        .inr ⟨rfl, by simp [wellFormed, hb], rfl, rfl, fun _ => rfl⟩⟩
    · cases h
  | wireWrTxpl w =>
    simp only [firstFrame] at h
    split at h
    · rename_i hb; cases h
      exact ⟨isFrame_wrTxpl d hb.1 hb.2,
        .inr ⟨rfl, by simp [wellFormed, hb], rfl, rfl, fun _ => rfl⟩⟩
    · cases h
  | wireFlushTx => cases h; exact ⟨isFrame_flushTx d, .inr ⟨rfl, rfl, rfl, rfl, fun _ => rfl⟩⟩
  | wireFlushRx => cases h; exact ⟨isFrame_flushRx d, .inr ⟨rfl, rfl, rfl, rfl, fun _ => rfl⟩⟩
  | wireNop => cases h; exact ⟨isFrame_nop d, .inr ⟨rfl, rfl, rfl, rfl, fun _ => rfl⟩⟩
  | readRegister a =>
    simp only [firstFrame] at h
    split at h
    · rename_i ha
      have : tx = frameRdReg d (addressField a) := by rw [← Option.some.inj h, frameRdReg, opcodeByteWA_read a ha]
      subst this
      refine ⟨isFrame_rdReg d _, .inl ⟨rfl, .readRegister, readRegisterBody a, fun _ => rfl, rfl, ?_⟩⟩
      rintro u rfl
      exact ⟨_, by rw [readRegisterBody, validateRead, if_neg (by omega)]; simp only [runRdReg, Run.map_close]; rfl⟩
    · cases h
  | writeRegister a b =>
    simp only [firstFrame] at h
    split at h
    · rename_i ha
      have : tx = frameWrReg (addressField a) b := by rw [← Option.some.inj h, frameWrReg, opcodeByteWA_write a ha.1]
      subst this
      refine ⟨isFrame_wrReg ha.2, .inl ⟨rfl, .writeRegister, writeRegisterBody a b, fun _ => rfl, rfl, ?_⟩⟩
      rintro u rfl
      exact ⟨_, by rw [writeRegisterBody, validateWrite_ok ha.1 ha.2]; simp only [runWrReg, Run.map_close]; rfl⟩
    · cases h
  | writeRegisterByte a b =>
    simp only [firstFrame] at h
    split at h
    · rename_i ha
      have : tx = frameWrReg (addressField a) [b] := by rw [← Option.some.inj h, frameWrReg, opcodeByteWA_write a ha]
      subst this
      have h1 : [b].length ≤ d.sizeOf (addressField a) := one_le_sizeOf _ _
      refine ⟨isFrame_wrReg h1, .inl ⟨rfl, .writeRegisterByte, writeRegisterBody a [b], fun _ => rfl, rfl, ?_⟩⟩
      rintro u rfl
      exact ⟨_, by rw [writeRegisterBody, validateWrite_ok ha h1]; simp only [runWrReg, Run.map_close]; rfl⟩
    · cases h
  | readRXPayloadWidth =>
    cases h
    exact ⟨isFrame_rdRxplw d,
      .inl ⟨rfl, _, readRXPayloadWidthBody, fun _ => rfl, rfl, fun u _ =>
        ⟨_, by rw [readRXPayloadWidthBody]; simp only [runRdRxplw, Run.map_close]; rfl⟩⟩⟩
  | readRXPayload =>
    cases h
    exact ⟨isFrame_rdRxplw d,
      .inl ⟨rfl, _, readRXPayloadBody, fun _ => rfl, rfl, fun u _ =>
        ⟨_, by rw [readRXPayloadBody]; simp only [runReadRXPayload, Run.bind_close, runRdRxplw, Run.map_close]; rfl⟩⟩⟩
  | writeTXPayload p =>
    simp only [firstFrame] at h
    split at h
    · rename_i ha
      cases h
      refine ⟨isFrame_wrTxpl d ha.1 ha.2, .inl ⟨rfl, .writeTXPayload, writeTXPayloadBody p, fun _ => rfl, rfl, ?_⟩⟩
      rintro u rfl
      exact ⟨_, by rw [writeTXPayloadBody, validatePayload, if_neg (by omega)]; rfl⟩
    · cases h
  | flushTX => cases h; exact ⟨isFrame_flushTx d, .inl ⟨rfl, _, flushTXBody, fun _ => rfl, rfl, fun u _ => ⟨_, rfl⟩⟩⟩
  | flushRX => cases h; exact ⟨isFrame_flushRx d, .inl ⟨rfl, _, flushRXBody, fun _ => rfl, rfl, fun u _ => ⟨_, rfl⟩⟩⟩
  | readState =>
    cases h
    exact ⟨isFrame_nop d,
      .inl ⟨rfl, _, readStateBody, fun _ => rfl, rfl, fun u _ =>
        ⟨_, by rw [readStateBody]; simp only [runNop, Run.map_close]; rfl⟩⟩⟩
  | getLastState => cases h
  | receive =>
    have : tx = frameRdReg d 0 := (Option.some.inj h).symm
    subst this
    refine ⟨isFrame_rdReg d 0, .inl ⟨rfl, _, changeMode receiveConfig, fun _ => rfl, rfl, ?_⟩⟩
    rintro u rfl
    exact ⟨_, by rw [changeMode]; simp only [Run.bind_close, runRdReg, Run.map_close]; rfl⟩
  | transmit =>
    have : tx = frameRdReg d 0 := (Option.some.inj h).symm
    subst this
    refine ⟨isFrame_rdReg d 0, .inl ⟨rfl, _, changeMode transmitConfig, fun _ => rfl, rfl, ?_⟩⟩
    rintro u rfl
    exact ⟨_, by rw [changeMode]; simp only [Run.bind_close, runRdReg, Run.map_close]; rfl⟩
  | deactivateCE => cases h
  | processState =>
    cases h
    exact ⟨isFrame_nop d,
      .inl ⟨rfl, _, processStateBody, fun _ => rfl, rfl, fun u _ =>
        ⟨_, by rw [processStateBody]; simp only [runNop, Run.map_close]; rfl⟩⟩⟩

/-- A busy block that is not faulted ignores every well-formed instruction. -/
theorem exec_ignored (s : State) (i : Instr) (hh : s.halted = none) (hp : s.seq.phase ≠ .idle)
    (hw : wellFormed s.desc i = true) : exec i s = .next s := by
  have h : acceptFrame i s = .next s := by simp [acceptFrame, hh, hw, State.busy, hp]
  cases i <;> first | exact h | exact accept_busy hh hp

end Sys2Proof.Machine
end

