-- ==== Sys2Proof/Tests/Slice0.lean ====
section
/-! SUPPORT. Tests. Expected values come from spec/95_test_vectors.md (the vector is named), from the tables of
30_encoding R81 and R88, or are written out by hand from the rule named. The last part has a witness for every statement
with hypotheses. -/

namespace Sys2Proof.Tests

open Sys2Proof.Machine

/-! ### Well-formedness: one ill-formed term for each check, refused -/

theorem test_wf_wrReg_too_long : wellFormed Config.defaultDesc (.wireWrReg 5 [1, 2]) = false := by decide
theorem test_wf_wrReg_five : wellFormed Config.defaultDesc (.wireWrReg 0x10 [1, 2, 3, 4, 5]) = true := by decide
theorem test_wf_rdRxpl_zero : wellFormed Config.defaultDesc (.wireRdRxpl 0) = false := by decide
theorem test_wf_rdRxpl_33 : wellFormed Config.defaultDesc (.wireRdRxpl 33) = false := by decide
theorem test_wf_wrTxpl_empty : wellFormed Config.defaultDesc (.wireWrTxpl []) = false := by decide
theorem test_wf_wrTxpl_33 : wellFormed Config.defaultDesc (.wireWrTxpl (List.replicate 33 0)) = false := by decide
theorem test_wf_writeRegister_256 :
    wellFormed Config.defaultDesc (.writeRegister 0 (List.replicate 256 0)) = false := by
  show decide ((List.replicate 256 (0 : Byte)).length ≤ 255) = false
  rw [List.length_replicate]; rfl
theorem test_wf_writeTXPayload_256 :
    wellFormed Config.defaultDesc (.writeTXPayload (List.replicate 256 0)) = false := by
  show decide ((List.replicate 256 (0 : Byte)).length ≤ 255) = false
  rw [List.length_replicate]; rfl

/-! ### Decoding: every constructor from a word written out bit by bit (30_encoding R81, R88; tests' source is the tables
there and L1-1 of 95) -/

theorem test_dec_RD_REG :
    decodeFrame Config.defaultDesc [0b00001010, 0, 0, 0, 0, 0] = .command (.wireRdReg 10) := by decide
theorem test_dec_WR_REG :
    decodeFrame Config.defaultDesc [0b00110000, 0x01, 0x02, 0x03] = .command (.wireWrReg 16 [1, 2, 3]) := by decide
theorem test_dec_RD_RXPLW : decodeFrame Config.defaultDesc [0b01100000, 0] = .command .wireRdRxplw := by decide
theorem test_dec_RD_RXPL : decodeFrame Config.defaultDesc [0b01100001, 0, 0] = .command (.wireRdRxpl 2) := by decide
theorem test_dec_WR_TXPL :
    decodeFrame Config.defaultDesc [0b10100000, 0x7F] = .command (.wireWrTxpl [0x7F]) := by decide
theorem test_dec_FLUSH_TX : decodeFrame Config.defaultDesc [0b11100001] = .command .wireFlushTx := by decide
theorem test_dec_FLUSH_RX : decodeFrame Config.defaultDesc [0b11100010] = .command .wireFlushRx := by decide
theorem test_dec_NOP : decodeFrame Config.defaultDesc [0b11111111] = .command .wireNop := by decide
theorem test_dec_not_a_command : decodeFrame Config.defaultDesc [0b01100010, 0] = .notCommand 0x62 := by decide
theorem test_dec_short_read : decodeFrame Config.defaultDesc [0b00001010, 0] = .malformed := by decide

/-- V-R2. -/
theorem test_dec_readRegister : decodeRequest [0b00000000, 0x0A, 0] = .request (.readRegister 0x0A) [] := by decide
/-- V-R8. -/
theorem test_dec_writeRegister :
    decodeRequest [0b00000001, 0x10, 3, 1, 2, 3] = .request (.writeRegister 0x10 [1, 2, 3]) [] := by decide
/-- V-R15, with LEN = 0 and a byte of the next request behind it. -/
theorem test_dec_writeRegisterByte :
    decodeRequest [0b00000010, 0x05, 0, 0x4C, 0x08] = .request (.writeRegisterByte 5 0x4C) [0x08] := by decide
theorem test_dec_readRXPayloadWidth : decodeRequest [0b00000011, 0, 0] = .request .readRXPayloadWidth [] := by decide
theorem test_dec_readRXPayload : decodeRequest [0b00000100, 0, 0] = .request .readRXPayload [] := by decide
/-- V-P9. -/
theorem test_dec_writeTXPayload :
    decodeRequest [0b00000101, 0, 3, 1, 2, 3] = .request (.writeTXPayload [1, 2, 3]) [] := by decide
theorem test_dec_flushTX : decodeRequest [0b00000110, 0, 0] = .request .flushTX [] := by decide
theorem test_dec_flushRX : decodeRequest [0b00000111, 0, 0] = .request .flushRX [] := by decide
/-- V-H3. -/
theorem test_dec_readState : decodeRequest [0b00001000, 0x55, 2, 0xAA, 0xBB] = .request .readState [] := by decide
theorem test_dec_getLastState : decodeRequest [0b00001001, 0, 0] = .request .getLastState [] := by decide
theorem test_dec_receive : decodeRequest [0b00001010, 0, 0] = .request .receive [] := by decide
theorem test_dec_transmit : decodeRequest [0b00001011, 0, 0] = .request .transmit [] := by decide
theorem test_dec_deactivateCE : decodeRequest [0b00001100, 0, 0] = .request .deactivateCE [] := by decide
theorem test_dec_processState : decodeRequest [0b00001101, 0, 0] = .request .processState [] := by decide
/-- V-H2. -/
theorem test_dec_illegal : decodeRequest [0xFF, 0, 2, 0xAA, 0xBB, 0x09] = .illegal 0xFF [0x09] := by decide
theorem test_dec_incomplete : decodeRequest [0x05, 0, 3, 1, 2] = .incomplete := by decide

/-- The packed descriptor image of 30_encoding R104: CONFIG is size 1 with mask 0x7F, RX_ADDR_P0 size 5 with mask 0xFF,
entry 0x18 reserved. -/
theorem test_descriptor_image :
    descriptorImage Config.defaultDesc[0] = 0x07F ∧ descriptorImage Config.defaultDesc[10] = 0x1FF ∧
      descriptorImage Config.defaultDesc[24] = 0x200 := by decide

theorem test_table_words :
    decodeTableWord 8 0x0A = some .receive ∧ decodeTableWord 8 0x1F = some (.wireRdReg 31) ∧
      decodeTableWord 8 0x3F = some (.wireWrReg 31 [0]) ∧ decodeTableWord 8 0x61 = some (.wireRdRxpl 1) ∧
      decodeTableWord 24 0x000500 = some (.readRegister 5) ∧ decodeTableWord 8 0x62 = none := by decide

/-! ### One step of each operation -/

/-- An idle block at reset, with a request at the port and the answers given. -/
def asked (request : List Byte) (answers : List LinkAnswer) : State :=
  { State.reset with hostIn := request, link := answers }

/-- The same after an exchange that returned 0x0E, so that LAST_STATUS is valid. -/
def askedLater (request : List Byte) (answers : List LinkAnswer) : State :=
  { asked request answers with lastStatus := 0x0E, lsValid := true, trace := [.x [0xFF] [0x0E]], ceOut := false }

/-- What is seen of a step: ERR, STATUS, EVENT, LEN, the sequence, and the trace. -/
def seen : Host.Outcome State Fault Refusal → Option (List Byte × List Byte × List Event)
  | .next t => some ([t.res.err, t.res.status, t.res.event, t.res.len], t.res.payload, t.trace)
  | .fault _ => none
  | .refused _ => none

/-- V-R1. -/
theorem test_readRegister :
    seen (step (asked [0, 0, 0] [.ok [0x0E, 0x08]])) = some ([0, 0x0E, 0, 1], [0x08], [.x [0, 0] [0x0E, 0x08]]) := by
  decide
/-- V-R2. -/
theorem test_readRegister_five :
    seen (step (asked [0, 0x0A, 0] [.ok [0x0E, 0xE7, 0xE6, 0xE5, 0xE4, 0xE3]])) =
      some ([0, 0x0E, 0, 5], [0xE7, 0xE6, 0xE5, 0xE4, 0xE3],
        [.x [0x0A, 0, 0, 0, 0, 0] [0x0E, 0xE7, 0xE6, 0xE5, 0xE4, 0xE3]]) := by decide
/-- V-R8: no padding. -/
theorem test_writeRegister_short :
    seen (step (asked [1, 0x10, 3, 1, 2, 3] [.ok [0x0E, 9, 9, 9]])) =
      some ([0, 0x0E, 0, 0], [], [.x [0x30, 1, 2, 3] [0x0E, 9, 9, 9]]) := by decide
/-- V-R13: both checks would fail; the address is tested first. -/
theorem test_writeRegister_both_wrong :
    seen (step (askedLater [1, 0x28, 9, 1, 2, 3, 4, 5, 6, 7, 8, 9] [])) =
      some ([1, 0x0E, 0, 0], [], [.x [0xFF] [0x0E]]) := by decide
/-- V-R16. -/
theorem test_writeRegisterByte :
    seen (step (asked [2, 0x10, 1, 0xAB] [.ok [0x0E, 0]])) =
      some ([0, 0x0E, 0, 0], [], [.x [0x30, 0xAB] [0x0E, 0]]) := by decide
/-- V-P2. -/
theorem test_readRXPayloadWidth :
    seen (step (asked [3, 0, 0] [.ok [0x40, 0x21]])) =
      some ([0, 0x40, 0, 1], [0x21], [.x [0x60, 0] [0x40, 0x21]]) := by decide
/-- V-P5. -/
theorem test_readRXPayload :
    seen (step (asked [4, 0, 0] [.ok [0x42, 3], .ok [0x0E, 0xAA, 0xBB, 0xCC]])) =
      some ([0, 0x0E, 0, 3], [0xAA, 0xBB, 0xCC],
        [.x [0x60, 0] [0x42, 3], .x [0x61, 0, 0, 0] [0x0E, 0xAA, 0xBB, 0xCC]]) := by decide
/-- V-P7. -/
theorem test_readRXPayload_33 :
    seen (step (asked [4, 0, 0] [.ok [0x40, 0x21]])) = some ([6, 0x40, 0, 0], [], [.x [0x60, 0] [0x40, 0x21]]) := by
  decide
/-- V-P9. -/
theorem test_writeTXPayload :
    seen (step (asked [5, 0, 3, 1, 2, 3] [.ok [0x0E, 0, 0, 0]])) =
      some ([0, 0x0E, 0, 0], [], [.x [0xA0, 1, 2, 3] [0x0E, 0, 0, 0]]) := by decide
/-- V-P10. -/
theorem test_writeTXPayload_empty :
    seen (step (askedLater [5, 0, 0] [])) = some ([3, 0x0E, 0, 0], [], [.x [0xFF] [0x0E]]) := by decide
/-- V-P12. -/
theorem test_flushTX :
    seen (step (asked [6, 0, 0] [.ok [0x1E]])) = some ([0, 0x1E, 0, 0], [], [.x [0xE1] [0x1E]]) := by decide
/-- V-P13. -/
theorem test_flushRX :
    seen (step (asked [7, 0, 0] [.ok [0x4E]])) = some ([0, 0x4E, 0, 0], [], [.x [0xE2] [0x4E]]) := by decide
/-- V-T1. -/
theorem test_readState :
    seen (step (asked [8, 0, 0] [.ok [0x0E]])) = some ([0, 0x0E, 0, 0], [], [.x [0xFF] [0x0E]]) := by decide
/-- V-T4, its second call: a failed exchange leaves LAST_STATUS. -/
theorem test_readState_fails :
    seen (step (askedLater [8, 0, 0] [.fail])) =
      some ([4, 0x0E, 0, 0], [], [.x [0xFF] [0x0E], .xfail [0xFF]]) := by decide
/-- V-T2. -/
theorem test_getLastState :
    seen (step (askedLater [9, 0, 0] [])) = some ([0, 0x0E, 0, 0], [], [.x [0xFF] [0x0E]]) := by decide
/-- V-M1. -/
theorem test_receive :
    seen (step (asked [0x0A, 0, 0] [.ok [0x0E, 0x08], .ok [0x0E, 0]])) =
      some ([0, 0x0E, 0, 0], [], [.x [0, 0] [0x0E, 0x08], .x [0x20, 0x0B] [0x0E, 0], .ce true]) := by decide
/-- V-M10. -/
theorem test_receive_read_fails :
    seen (step (askedLater [0x0A, 0, 0] [.fail])) =
      some ([4, 0x0E, 0, 0], [], [.x [0xFF] [0x0E], .xfail [0, 0]]) := by decide
/-- V-M4. -/
theorem test_transmit :
    seen (step (asked [0x0B, 0, 0] [.ok [0x0E, 0xFF], .ok [0x0E, 0]])) =
      some ([0, 0x0E, 0, 0], [], [.x [0, 0] [0x0E, 0xFF], .x [0x20, 0xFE] [0x0E, 0], .ce true]) := by decide
/-- V-M11. -/
theorem test_transmit_write_fails :
    seen (step (asked [0x0B, 0, 0] [.ok [0x4E, 0x0F], .fail])) =
      some ([4, 0x4E, 0, 0], [], [.x [0, 0] [0x4E, 0x0F], .xfail [0x20, 0x0E]]) := by decide
/-- V-M8. -/
theorem test_deactivateCE :
    seen (step (askedLater [0x0C, 0, 0] [])) = some ([0, 0x0E, 0, 0], [], [.x [0xFF] [0x0E], .ce false]) := by decide
/-- V-E9: the pipe is that of the first sample. -/
theorem test_processState_received :
    seen (step (asked [0x0D, 0, 0] [.ok [0x42], .ok [0x46, 1], .ok [0x0E, 0x77]])) =
      some ([0, 0x0E, 1, 1], [0x77], [.x [0xFF] [0x42], .x [0x60, 0] [0x46, 1], .x [0x61, 0] [0x0E, 0x77]]) := by decide
/-- V-E4. -/
theorem test_processState_both_flags :
    seen (step (asked [0x0D, 0, 0] [.ok [0x3E]])) = some ([0, 0x3E, 2, 0], [], [.x [0xFF] [0x3E]]) := by decide

/-- A wire command run by itself: the answer is in RXBUF, SEQ is at rest. -/
def heard : Host.Outcome State Fault Refusal → Option (List Byte × List Byte × Phase)
  | .next t => some (t.outFrame, t.inFrame, t.seq.phase)
  | .fault _ => none
  | .refused _ => none

/-- An idle block that has been handed a command buffer. -/
def handed (frame : List Byte) (answers : List LinkAnswer) : State :=
  { State.reset with frameIn := frame, link := answers }

theorem test_wire_RD_REG :
    heard (step (handed [0x05, 0] [.ok [0x0E, 0x4C]])) = some ([0x05, 0], [0x0E, 0x4C], .idle) := by decide
theorem test_wire_WR_REG :
    heard (step (handed [0x25, 0x4C] [.ok [0x0E, 0]])) = some ([0x25, 0x4C], [0x0E, 0], .idle) := by decide
theorem test_wire_RD_RXPLW :
    heard (step (handed [0x60, 0] [.ok [0x42, 3]])) = some ([0x60, 0], [0x42, 3], .idle) := by decide
theorem test_wire_RD_RXPL :
    heard (step (handed [0x61, 0] [.ok [0x0E, 0x5A]])) = some ([0x61, 0], [0x0E, 0x5A], .idle) := by decide
theorem test_wire_WR_TXPL :
    heard (step (handed [0xA0, 0x7F] [.ok [0x0E, 0]])) = some ([0xA0, 0x7F], [0x0E, 0], .idle) := by decide
theorem test_wire_FLUSH_TX : heard (step (handed [0xE1] [.ok [0x1E]])) = some ([0xE1], [0x1E], .idle) := by decide
theorem test_wire_FLUSH_RX : heard (step (handed [0xE2] [.ok [0x4E]])) = some ([0xE2], [0x4E], .idle) := by decide
theorem test_wire_NOP : heard (step (handed [0xFF] [.ok [0x0E]])) = some ([0xFF], [0x0E], .idle) := by decide

/-- V-H1. -/
theorem test_illegal_operation :
    seen (step (askedLater [0x0E, 0, 0] [])) = some ([5, 0x0E, 0, 0], [], [.x [0xFF] [0x0E]]) := by decide

/-- withFetchWord: the next step runs the instruction of the word, a host operation or a wire command. -/
theorem test_fetch_word_host :
    step (State.reset.withFetchWord 8 0x0C) = exec .deactivateCE { State.reset with hostIn := [] } := rfl
theorem test_fetch_word_wire :
    step (State.reset.withFetchWord 8 0xE1) = exec .wireFlushTx { State.reset with frameIn := [] } := rfl

/-! ### Witnesses: for each statement with hypotheses, a state and operands that meet all of them together, one for each
clause, at the boundary values of its ranges -/

/-- An idle block with these answers to come. -/
def linked (answers : List LinkAnswer) : State := { State.reset with link := answers }

/-- A block that has polled once and presents the response: DONE, one exchange on the trace. -/
def polled : State :=
  { State.reset with
    txbuf := bufferOf [0xFF]
    rxbuf := bufferOf [0x2E]
    xlen := 1
    lastStatus := 0x2E
    lsValid := true
    seq := ⟨some .processState, 1, .done⟩
    res := { Res.reset with status := 0x2E, event := 2 }
    ceOut := true
    trace := [.ce true, .x [0xFF] [0x2E]] }

/-- A block whose first exchange has stalled. -/
def stalled : State := { State.reset with seq := ⟨some .readState, 0, .xchg⟩ }

/-- A faulted block that presents its report. -/
def faulted : State :=
  { State.reset with
    seq := ⟨some .readRXPayload, 1, .done⟩, res := { Res.reset with err := 6 }, halted := some .rxWidthFault }

theorem test_witness_HostRequestRoundTrip :
    (Instr.writeRegister 0xFF (List.replicate 5 1)).space = .host ∧
      wellFormed Config.defaultDesc (.writeRegister 0xFF (List.replicate 5 1)) = true := by decide
theorem test_witness_WireFrameRoundTrip :
    (Instr.wireWrTxpl (List.replicate 32 1)).space = .wire ∧
      wellFormed Config.defaultDesc (.wireWrTxpl (List.replicate 32 1)) = true ∧
      wellFormed Config.defaultDesc (.wireRdRxpl 1) = true ∧ wellFormed Config.defaultDesc (.wireRdRxpl 32) = true ∧
      wellFormed Config.defaultDesc (.wireWrReg 31 [7]) = true := by decide
theorem test_witness_WireFrameHasOneReading :
    decodeFrame Config.defaultDesc [0x25] = .command (.wireWrReg 5 []) := by decide
theorem test_witness_OtherOpcodeBytes :
    [0x40, 0x5F, 0x62, 0x9F, 0xA1, 0xE0, 0xE3, 0xFE].all (fun b =>
      decide (decodeFrame Config.defaultDesc [b] = .notCommand b)) = true ∧
    [0x00, 0x3F, 0x60, 0x61, 0xA0, 0xE1, 0xE2, 0xFF].all (fun b =>
      decide (decodeFrame Config.defaultDesc [b] ≠ .notCommand b)) = true := by decide
theorem test_witness_UnusedRequestFields : ([] : List Byte).length = (0 : Byte).toNat ∧ [1, 2].length = (2 : Byte).toNat := by
  decide
theorem test_witness_StepRunsDecodedRequest :
    (asked [0x0C, 0, 0, 0x09] []).Ready ∧ (asked [0x0C, 0, 0, 0x09] []).frameIn = [] ∧
      decodeRequest (asked [0x0C, 0, 0, 0x09] []).hostIn = .request .deactivateCE [0x09] := by decide
theorem test_witness_StepRunsPreparedFrame :
    (handed [0x60, 0] []).Ready ∧
      decodeFrame (handed [0x60, 0] []).desc (handed [0x60, 0] []).frameIn = .command .wireRdRxplw := by decide
theorem test_witness_NonFramesAreRefused :
    (handed [0x40] []).Ready ∧ decodeFrame (handed [0x40] []).desc (handed [0x40] []).frameIn = .notCommand 0x40 ∧
      (handed [0xA0] []).Ready ∧ (handed [0xA0] []).frameIn ≠ [] ∧
      decodeFrame (handed [0xA0] []).desc (handed [0xA0] []).frameIn = .malformed ∧
      State.reset.halted = none ∧ (Instr.wireRdRxpl 33).space = .wire ∧
      wellFormed State.reset.desc (.wireRdRxpl 33) = false := by decide
theorem test_witness_UnknownOperationIsIllegal :
    (askedLater [0x0E, 0, 1, 7] []).Ready ∧ (askedLater [0x0E, 0, 1, 7] []).frameIn = [] ∧ 0x0D < (0x0E : Byte).toNat ∧
      [(7 : Byte)].length = (1 : Byte).toNat ∧ (askedLater [0x0E, 0, 1, 7] []).lsValid = true := by decide
theorem test_witness_IdleBlockWaits :
    (asked [0x08, 0] []).Ready ∧ (asked [0x08, 0] []).frameIn = [] ∧
      decodeRequest (asked [0x08, 0] []).hostIn = .incomplete := by decide
theorem test_witness_ResponseIsTaken : polled.halted = none ∧ polled.seq.phase = .done := by decide
theorem test_witness_BusyBlockIgnoresOperation :
    stalled.halted = none ∧ stalled.seq.phase ≠ .idle ∧ wellFormed stalled.desc .readState = true := by decide
theorem test_witness_StalledExchange_first :
    (linked [.never]).Ready ∧ firstFrame (linked [.never]).desc (.readRegister 31) = some [0x1F, 0] ∧
      (linked [.never]).link = .never :: [] := by decide
theorem test_witness_StalledExchange_result :
    (linked [.ok [0, 1], .never]).Ready ∧
      ∃ t, exec .readRXPayload (linked [.ok [0, 1], .never]) = .next t ∧ t.seq.phase = .xchg :=
  ⟨by decide, _, rfl, by decide⟩
theorem test_witness_StalledExchange_held :
    stalled.halted = none ∧ stalled.seq.phase = .xchg ∧ wellFormed stalled.desc .flushTX = true := by decide
theorem test_witness_FirstExchangeFailure :
    (linked [.fail]).Ready ∧ firstFrame (linked [.fail]).desc (.writeTXPayload [1]) = some [0xA0, 1] ∧
      (linked [.fail]).link = .fail :: [] ∧ (askedLater [] [.fail]).Ready ∧ (askedLater [] [.fail]).lsValid = true := by
  decide
theorem test_witness_ReadyBlockRunsEveryInstruction :
    State.reset.Ready ∧ wellFormed State.reset.desc (.wireWrReg 10 [1, 2, 3, 4, 5]) = true := by decide
theorem test_witness_ErrorLeavesLevel :
    State.reset.Ready ∧ (Instr.readRegister 32).space = .host ∧
      ∃ t, exec (.readRegister 32) State.reset = .next t ∧ t.seq.phase = .done ∧ t.res.err ≠ 0 :=
  ⟨by decide, by decide, _, rfl, by decide, by decide⟩
theorem test_witness_ReadRegister :
    (linked [.ok [0, 1]]).Ready ∧ (31 : Byte).toNat ≤ 31 ∧ (linked [.ok [0, 1]]).link = .ok [0, 1] :: [] ∧
      [(0 : Byte), 1].length = 1 + (linked [.ok [0, 1]]).desc.sizeOf (addressField 31) := by decide
theorem test_witness_AddressAbove31 : State.reset.Ready ∧ 31 < (32 : Byte).toNat := by decide
theorem test_witness_AddressUpTo31 :
    (linked [.ok [0]]).Ready ∧ (31 : Byte).toNat ≤ 31 ∧
      ∃ t, exec (.writeRegister 31 []) (linked [.ok [0]]) = .next t ∧ t.seq.phase = .done :=
  ⟨by decide, by decide, _, rfl, by decide⟩
theorem test_witness_WriteRegister :
    (linked [.ok [0, 0, 0, 0, 0, 0]]).Ready ∧
      [(1 : Byte), 2, 3, 4, 5].length ≤ (linked [.ok [0, 0, 0, 0, 0, 0]]).desc.sizeOf (addressField 16) ∧
      [(0 : Byte), 0, 0, 0, 0, 0].length = 1 + [(1 : Byte), 2, 3, 4, 5].length ∧
      ([] : List Byte).length ≤ State.reset.desc.sizeOf (addressField 31) ∧ [(0 : Byte), 0].length = 2 := by decide
theorem test_witness_OverlongRegisterWrite :
    State.reset.Ready ∧ (0 : Byte).toNat ≤ 31 ∧ State.reset.desc.sizeOf (addressField 0) < [(1 : Byte), 2].length ∧
      State.reset.desc.sizeOf (addressField 10) < [(1 : Byte), 2, 3, 4, 5, 6].length := by decide
theorem test_witness_RegisterWriteOfItsSize :
    (linked [.ok [0, 0]]).Ready ∧ [(1 : Byte)].length ≤ (linked [.ok [0, 0]]).desc.sizeOf (addressField 0) ∧
      ∃ t, exec (.writeRegister 0 [1]) (linked [.ok [0, 0]]) = .next t ∧ t.seq.phase = .done :=
  ⟨by decide, by decide, _, rfl, by decide⟩
theorem test_witness_WidthProbe : (linked [.ok [0x40, 0xFF]]).Ready ∧ (linked [.ok [0x40, 0xFF]]).link = .ok [0x40, 0xFF] :: [] := by
  decide
theorem test_witness_EmptyFifoRead : (linked [.ok [0x0E, 0]]).Ready ∧ (linked [.ok [0x0E, 0]]).link = .ok [0x0E, 0] :: [] := by
  decide
theorem test_witness_ReadRXPayload :
    (linked [.ok [0, 1], .ok [0, 9]]).Ready ∧ 1 ≤ (1 : Byte).toNat ∧ (1 : Byte).toNat ≤ 32 ∧
      [(0 : Byte), 9].length = 1 + (1 : Byte).toNat ∧ (32 : Byte).toNat ≤ 32 ∧
      (List.replicate 33 (0 : Byte)).length = 1 + (32 : Byte).toNat := by decide
theorem test_witness_WidthAbove32 :
    (linked [.ok [0x40, 33]]).Ready ∧ 32 < (33 : Byte).toNat ∧ (linked [.ok [0x40], .ok [0x40, 255]]).Ready ∧
      (0x40 : Byte).getLsbD 6 = true ∧ 32 < (255 : Byte).toNat := by decide
theorem test_witness_PayloadReadFailure :
    (linked [.ok [0x40, 32], .fail]).Ready ∧ (linked [.ok [0x40, 32], .fail]).link = .ok [0x40, 32] :: .fail :: [] ∧
      1 ≤ (32 : Byte).toNat ∧ (32 : Byte).toNat ≤ 32 := by decide
theorem test_witness_WriteTXPayload :
    (linked [.ok [0, 0]]).Ready ∧ 1 ≤ [(7 : Byte)].length ∧ [(7 : Byte)].length ≤ 32 ∧
      [(0 : Byte), 0].length = 1 + [(7 : Byte)].length ∧ (List.replicate 32 (0 : Byte)).length ≤ 32 := by decide
theorem test_witness_PayloadLength :
    State.reset.Ready ∧ ([] : List Byte).length = 0 ∧ 32 < (List.replicate 33 (0 : Byte)).length := by decide
theorem test_witness_PayloadInRange :
    (linked [.ok [0, 0]]).Ready ∧
      ∃ t, exec (.writeTXPayload [7]) (linked [.ok [0, 0]]) = .next t ∧ t.seq.phase = .done :=
  ⟨by decide, _, rfl, by decide⟩
theorem test_witness_OneByteExchange : (linked [.ok [0x0E]]).Ready ∧ (linked [.ok [0x0E]]).link = .ok [0x0E] :: [] := by decide
theorem test_witness_GetLastState : (askedLater [] []).Ready ∧ (askedLater [] []).lsValid = true := by decide
theorem test_witness_ModeChange :
    (linked [.ok [0x0E, 8], .ok [0x2E, 0]]).Ready ∧
      (linked [.ok [0x0E, 8], .ok [0x2E, 0]]).link = .ok [0x0E, 8] :: .ok [0x2E, 0] :: [] ∧
      [(0x0E : Byte), 8].length = 1 + (linked [.ok [0x0E, 8], .ok [0x2E, 0]]).desc.sizeOf 0 ∧
      [(0x2E : Byte), 0].length = 2 := by decide
/-- A CONFIG byte with every bit but PWR_UP, bit 1, set. -/
theorem test_witness_ConfigComputations : (0xFD : Byte).getLsbD 1 = false := by decide
theorem test_witness_ConfigWriteFailure :
    (linked [.ok [0x4E, 15], .fail]).Ready ∧ (linked [.ok [0x4E, 15], .fail]).link = .ok [0x4E, 15] :: .fail :: [] ∧
      [(0x4E : Byte), 15].length = 1 + (linked [.ok [0x4E, 15], .fail]).desc.sizeOf 0 := by decide
theorem test_witness_DeactivateCE : (askedLater [] []).Ready ∧ State.reset.Ready := by decide
theorem test_witness_PollPriority :
    (linked [.ok [0x70], .ok [0x70, 0]]).Ready ∧
      ∃ t, exec .processState (linked [.ok [0x70], .ok [0x70, 0]]) = .next t ∧ t.seq.phase = .done ∧ t.res.err = 0 :=
  ⟨by decide, _, rfl, by decide, by decide⟩
theorem test_witness_PollWithoutPacket :
    (linked [.ok [0x3E]]).Ready ∧ (linked [.ok [0x3E]]).link = .ok [0x3E] :: [] ∧ (0x3E : Byte).getLsbD 6 = false := by
  decide
theorem test_witness_PollDelivers :
    (linked [.ok [0x4E], .ok [0x4E, 1], .ok [0, 9]]).Ready ∧ (0x4E : Byte).getLsbD 6 = true ∧
      [(0 : Byte), 9].length = 1 + (1 : Byte).toNat ∧ (linked [.ok [0x4E], .ok [0x4E, 0]]).Ready := by decide
theorem test_witness_PollFailure :
    (linked [.ok [0x42], .fail]).Ready ∧ (0x42 : Byte).getLsbD 6 = true ∧
      (linked [.ok [0x42], .ok [0x42, 32], .fail]).Ready ∧ 1 ≤ (32 : Byte).toNat ∧ (32 : Byte).toNat ≤ 32 := by decide
theorem test_witness_WireCommand :
    (Instr.wireRdRxpl 32).space = .wire ∧ (linked [.ok [0, 0]]).Ready ∧
      firstFrame (linked [.ok [0, 0]]).desc (.wireWrReg 31 [5]) = some [0x3F, 5] ∧
      (linked [.ok [0, 0]]).link = .ok [0, 0] :: [] ∧ [(0 : Byte), 0].length = [(0x3F : Byte), 5].length := by decide

/-- The step from `polled` exists, and `polled` meets every predicate that every step keeps. -/
theorem test_witness_predicates :
    (∃ t, step polled = .next t) ∧ polled.StatusTrue ∧ polled.LevelTrue ∧ polled.SeqSound ∧ polled.BuffersClean ∧
      polled.ResSound ∧ polled.FaultReported := by
  refine ⟨⟨_, rfl⟩, rfl, fun l h => ?_, ?_, ?_, ?_, fun h => nomatch h⟩
  · exact Option.some.inj h
  · exact ⟨.inr ⟨.inl rfl, by decide⟩, rfl⟩
  · exact ⟨by decide, by decide, by decide⟩
  · exact ⟨by decide, by decide, by decide, by decide, by decide⟩

theorem test_witness_WireClean : (∃ t, step polled = .next t) ∧ polled.WireClean := by
  refine ⟨⟨_, rfl⟩, fun e he tx ht => ?_, fun tx rx he => ?_⟩
  · rcases List.mem_cons.mp he with rfl | he
    · cases ht
    · rw [List.mem_singleton.mp he] at ht
      rw [← Option.some.inj ht]
      exact ⟨⟨.wireNop, by decide⟩, by decide, by decide⟩
  · rcases List.mem_cons.mp he with he | he
    · cases he
    · cases List.mem_singleton.mp he
      rfl

theorem test_witness_FaultedMachineStops :
    faulted.halted = some .rxWidthFault ∧ faulted.FaultReported ∧ step faulted = .fault .rxWidthFault :=
  ⟨rfl, fun _ => ⟨rfl, rfl⟩, rfl⟩

/-- One step with three exchanges. -/
theorem test_witness_step_adds :
    (seen (step (asked [0x0D, 0, 0] [.ok [0x42], .ok [0x46, 1], .ok [0x0E, 0x77]]))).map (fun x => x.2.2.length) =
      some 3 := by decide
theorem test_witness_TableAndValidityPersist : (∃ t, step polled = .next t) ∧ polled.lsValid = true := ⟨⟨_, rfl⟩, rfl⟩

/-- A table with the sizes of the default one and another mask and name at entry 0. -/
def otherTable : DescTable := Config.defaultDesc.set 0 ⟨.na, .one, 0⟩

theorem test_witness_MaskAndName :
    (∀ a : BitVec 5, otherTable.sizeOf a = State.reset.desc.sizeOf a) ∧ otherTable ≠ State.reset.desc ∧
      ∃ t, exec (.readRegister 5) State.reset = .next t := ⟨by decide, by decide, _, rfl⟩
theorem test_witness_OnlyModeOperations :
    (∃ t, exec .transmit { linked [.ok [0, 0], .ok [0, 0]] with ceOut := false } = .next t ∧ t.ceOut ≠ false) ∧
      ∃ t, exec .deactivateCE { linked [] with ceOut := true } = .next t ∧ t.ceOut ≠ true :=
  ⟨⟨_, rfl, by decide⟩, _, rfl, by decide⟩

end Sys2Proof.Tests
end

/-! Faulted machines (00_scope R11, 60_exceptions R243): how every instruction is admitted, and what admission answers once
the model-level fault is reached. -/

namespace Sys2Proof.Machine

theorem accept_of_halted {s : State} {f : Fault} (hf : s.halted = some f) (op : HostOp) (body : State → State) :
    accept op body s = .fault f := by
  simp [accept, hf]

theorem acceptFrame_of_halted {s : State} {f : Fault} (hf : s.halted = some f) (i : Instr) :
    acceptFrame i s = .fault f := by
  simp [acceptFrame, hf]

theorem step_of_halted {s : State} {f : Fault} (hf : s.halted = some f) : step s = .fault f := by
  simp [step, cycle, hf]

/-- Every instruction passes one of the two admissions of 20_memory R59 and R65. -/
theorem exec_admission (i : Instr) :
    (∃ op body, ∀ s, exec i s = accept op body s) ∨ ∀ s, exec i s = acceptFrame i s := by
  cases i with
  | readRegister address => exact .inl ⟨_, readRegisterBody address, fun _ => rfl⟩
  | writeRegister address bytes => exact .inl ⟨_, writeRegisterBody address bytes, fun _ => rfl⟩
  | writeRegisterByte address byte => exact .inl ⟨_, writeRegisterBody address [byte], fun _ => rfl⟩
  | readRXPayloadWidth => exact .inl ⟨_, readRXPayloadWidthBody, fun _ => rfl⟩
  | readRXPayload => exact .inl ⟨_, readRXPayloadBody, fun _ => rfl⟩
  | writeTXPayload payload => exact .inl ⟨_, writeTXPayloadBody payload, fun _ => rfl⟩
  | flushTX => exact .inl ⟨_, flushTXBody, fun _ => rfl⟩
  | flushRX => exact .inl ⟨_, flushRXBody, fun _ => rfl⟩
  | readState => exact .inl ⟨_, readStateBody, fun _ => rfl⟩
  | getLastState => exact .inl ⟨_, complete [], fun _ => rfl⟩
  | receive => exact .inl ⟨_, changeMode receiveConfig, fun _ => rfl⟩
  | transmit => exact .inl ⟨_, changeMode transmitConfig, fun _ => rfl⟩
  | deactivateCE => exact .inl ⟨_, deactivateCEBody, fun _ => rfl⟩
  | processState => exact .inl ⟨_, processStateBody, fun _ => rfl⟩
  | _ => exact .inr fun _ => rfl

theorem exec_of_halted {s : State} {f : Fault} (hf : s.halted = some f) (i : Instr) : exec i s = .fault f := by
  rcases exec_admission i with ⟨op, body, h⟩ | h
  · rw [h, accept_of_halted hf]
  · rw [h, acceptFrame_of_halted hf]

/-- Only a machine that is not yet faulted steps, and its step reaches the fault only together with the report. -/
theorem step_faultReported {s t : State} (h : step s = .next t) : t.FaultReported := by
  intro ht
  have hs : s.halted = none := (step_cases h).1
  rcases (step_changed h).1.halted with hkept | hreported
  · rw [hkept, hs] at ht
    cases ht
  · exact hreported

/-- Settles O51: a step starts unfaulted and faults only with the report; both admissions and the cycle test for the fault
first. -/
theorem faultedMachineStops : Obligations.FaultedMachineStops :=
  ⟨fun _ _ _ h => step_faultReported h, fun _ _ i hf => ⟨step_of_halted hf, exec_of_halted hf i⟩⟩

end Sys2Proof.Machine

/-! What every step keeps of the state (10_state R20, R26 to R29): CE_OUT agrees with the trace, SEQ and HOLD are at a
point between operations, the table and LS_VALID persist. All are read off `step_changed`. -/

namespace Sys2Proof.Machine

theorem IsExchange.level_eq_none {d : DescTable} {e : Event} (h : IsExchange d e) : e.level = none := by
  obtain ⟨tx, rx, rfl, -, -⟩ := h
  rfl

theorem latestLevel_append (earlier later : List Event) :
    latestLevel (earlier ++ later) = (latestLevel later).or (latestLevel earlier) := by
  simp [latestLevel, List.getLast?_append]

theorem latestLevel_of_exchanges {d : DescTable} {events : List Event} (h : ∀ e ∈ events, IsExchange d e) :
    latestLevel events = none := by
  have hnone : events.filterMap Event.level = [] :=
    List.filterMap_eq_nil_iff.mpr fun e he => (h e he).level_eq_none
  rw [latestLevel, hnone, List.getLast?_nil]

theorem Tail.latestLevel_eq_none {d : DescTable} {last : List Event} (h : Tail d last) (hce : ∀ l, last ≠ [.ce l]) :
    latestLevel last = Option.none := by
  cases h with
  | none => rfl
  | fail _ => rfl
  | ce level => exact absurd rfl (hce level)

/-- CE_OUT and the trace move together: neither the pin nor the latest CE event changes, or the new event shows the new
level (44_mode R191, R192). -/
theorem Changed.level_cases {s t : State} (h : Changed s t) :
    (latestLevel t.trace = latestLevel s.trace ∧ t.ceOut = s.ceOut) ∨ latestLevel t.trace = some t.ceOut := by
  obtain ⟨events, last, htrace, hexchanges, htail, -, -, -, hce⟩ := h.trace
  rw [htrace, latestLevel_append, latestLevel_append, latestLevel_of_exchanges hexchanges]
  rcases hce with ⟨hkept, hno⟩ | ⟨l, rfl, hl⟩
  · left
    rw [htail.latestLevel_eq_none hno]
    exact ⟨rfl, hkept⟩
  · right
    rw [hl]
    rfl

theorem Changed.levelTrue {s t : State} (h : Changed s t) (hs : s.LevelTrue) : t.LevelTrue := by
  intro l hl
  rcases h.level_cases with ⟨htrace, hkept⟩ | hnew
  · rw [hkept]
    exact hs l (htrace ▸ hl)
  · exact Option.some.inj (hnew.symm.trans hl)

/-- Settles O47: a step adds exchanges, which show no level, and then at most one CE event, which shows the new CE_OUT. -/
theorem stepKeepsLevelTrue : Obligations.StepKeepsLevelTrue :=
  fun _ _ hs h => (step_changed h).1.levelTrue hs

/-- Settles O48: a step keeps SEQ, puts it at rest or leaves an operation finished or stalled, and HOLD is kept or has run
down. -/
theorem stepKeepsSeqSound : Obligations.StepKeepsSeqSound := by
  rintro s t ⟨hseq, hhold⟩ h
  obtain ⟨hchanged, hafter⟩ := step_changed h
  constructor
  · rcases hafter with hkept | hrest | hfinished
    · rw [hkept]
      exact hseq
    · exact .inl hrest
    · exact .inr hfinished
  · rcases hchanged.hold with hkept | hrunDown
    · exact hkept.trans hhold
    · exact hrunDown

theorem Changed.lsValid_persists {s t : State} (h : Changed s t) (hs : s.lsValid = true) : t.lsValid = true := by
  obtain ⟨_, _, -, -, -, -, -, ⟨-, -, hkept⟩ | ⟨-, hlatched⟩, -⟩ := h.trace
  · exact hkept.trans hs
  · exact hlatched

/-- Settles O56: no operation writes DESC, and the status latch, the one write of LS_VALID, sets it. -/
theorem tableAndValidityPersist : Obligations.TableAndValidityPersist :=
  fun _ _ h => ⟨(step_changed h).1.desc, (step_changed h).1.lsValid_persists⟩

end Sys2Proof.Machine

/-! The causes of a change of CE_OUT (10_state R27, 44_mode R197). -/

namespace Sys2Proof.Machine

theorem Broken.ceOut {s t : State} (h : Broken s t) : t.ceOut = s.ceOut := by
  cases h with
  | failed h _ _ _ _ => exact h.ceOut
  | stalled h _ _ _ _ => exact h.ceOut
  | width h _ => exact h.ceOut

/-- An operation leaves CE_OUT as it was or at the level it commands. -/
theorem Ends.ceOut_cases {s t : State} {level : Option Bool} (h : Ends s level t) :
    t.ceOut = s.ceOut ∨ level = some t.ceOut := by
  cases h with
  | done h _ _ => exact .inl h.ceOut
  | polled h _ _ => exact .inl h.ceOut
  | broken h => exact .inl h.ceOut
  | refused _ => exact .inl rfl
  | raisedCE _ _ hl => exact .inr hl
  | loweredCE hl => exact .inr hl

theorem WireEnds.ceOut {s t : State} (h : WireEnds s t) : t.ceOut = s.ceOut := by
  cases h with
  | done h _ => exact h.ceOut
  | broken h => exact h.ceOut

theorem exec_ceOut_cases {i : Instr} {s t : State} (h : exec i s = .next t) :
    t.ceOut = s.ceOut ∨ commanded i = some t.ceOut := by
  by_cases hp : s.seq.phase = .idle
  · cases hs : i.space with
    | host =>
      obtain ⟨-, op, hends⟩ := exec_host_ends hs hp h
      exact hends.ceOut_cases
    | wire => exact .inl (exec_wire_ends hs hp h).2.ceOut
  · rw [exec_busy hp h]
    exact .inl rfl

theorem commanded_true {i : Instr} (h : commanded i = some true) : i = .receive ∨ i = .transmit := by
  cases i with
  | receive => exact .inl rfl
  | transmit => exact .inr rfl
  | _ => cases h

theorem commanded_false {i : Instr} (h : commanded i = some false) : i = .deactivateCE := by
  cases i with
  | deactivateCE => rfl
  | _ => cases h

/-- Settles O58: a level that differs is the one the instruction commands, and only the three mode operations command
one. -/
theorem onlyModeOperationsMoveCE : Obligations.OnlyModeOperationsMoveCE := by
  intro s t i h hmoved
  have hcommanded : commanded i = some t.ceOut := (exec_ceOut_cases h).resolve_left hmoved
  cases hce : t.ceOut with
  | true => exact .inl ⟨rfl, commanded_true (hce ▸ hcommanded)⟩
  | false => exact .inr ⟨rfl, commanded_false (hce ▸ hcommanded)⟩

end Sys2Proof.Machine

/-! Only the sizes of the descriptor table are read (10_state R20). A part of an operation that reads no table commutes with
a change of table; each operation reads sizes at its start and then is made of such parts. -/

namespace Sys2Proof.Machine

/-- The state with another descriptor table. -/
def State.setDesc (s : State) (d : DescTable) : State := { s with desc := d }

@[simp] theorem State.setDesc_desc (s : State) (d : DescTable) : (s.setDesc d).desc = d := rfl
@[simp] theorem State.setDesc_link (s : State) (d : DescTable) : (s.setDesc d).link = s.link := rfl

/-- The same part of an operation over another descriptor table. -/
def Run.setDesc {α : Type} (r : Run α) (d : DescTable) : Run α :=
  match r with
  | .on s a => .on (s.setDesc d) a
  | .over s => .over (s.setDesc d)

theorem Run.setDesc_map {α β : Type} (r : Run α) (d : DescTable) (f : α → β) :
    (r.setDesc d).map f = (r.map f).setDesc d := by
  rcases r with ⟨s, a⟩ | s
  · rfl
  · rfl

theorem Run.setDesc_bind {α β : Type} (r : Run α) (d : DescTable) {f : State → α → Run β}
    (hf : ∀ s a, f (s.setDesc d) a = (f s a).setDesc d) : (r.setDesc d).bind f = (r.bind f).setDesc d := by
  rcases r with ⟨s, a⟩ | s
  · exact hf s a
  · rfl

theorem Run.setDesc_close {α : Type} (r : Run α) (d : DescTable) {f : State → α → State}
    (hf : ∀ s a, f (s.setDesc d) a = (f s a).setDesc d) : (r.setDesc d).close f = (r.close f).setDesc d := by
  rcases r with ⟨s, a⟩ | s
  · exact hf s a
  · rfl

/-! ### Parts that read no table -/

theorem fitAnswer_setDesc (n : Nat) (a : LinkAnswer) (s : State) (d : DescTable) :
    fitAnswer n a (s.setDesc d) = ((fitAnswer n a s).1, (fitAnswer n a s).2.setDesc d) := by
  cases a with
  | ok bytes => rfl
  | fail => rfl
  | never => rfl

theorem linkAnswer_setDesc (n : Nat) (s : State) (d : DescTable) :
    linkAnswer n (s.setDesc d) = ((linkAnswer n s).1, (linkAnswer n s).2.setDesc d) := by
  unfold linkAnswer
  cases hlink : s.link with
  | nil =>
    rw [State.setDesc_link, hlink]
    exact fitAnswer_setDesc n (Config.freeLink s.draws) (s.useDraws 1) d
  | cons a more =>
    rw [State.setDesc_link, hlink]
    exact fitAnswer_setDesc n a (s.setLink more) d

theorem onAnswer_setDesc (a : LinkAnswer) (s : State) (d : DescTable) :
    onAnswer (a, s.setDesc d) = (onAnswer (a, s)).setDesc d := by
  cases a with
  | ok rx => rfl
  | fail => rfl
  | never => rfl

theorem exchange_setDesc (tx : List Byte) (s : State) (d : DescTable) :
    exchange tx (s.setDesc d) = (exchange tx s).setDesc d :=
  calc exchange tx (s.setDesc d)
      = onAnswer (linkAnswer (atLink tx s).outFrame.length ((atLink tx s).setDesc d)) := rfl
    _ = (exchange tx s).setDesc d := by rw [linkAnswer_setDesc, onAnswer_setDesc, exchange]

theorem runWrReg_setDesc (a : BitVec 5) (bytes : List Byte) (s : State) (d : DescTable) :
    runWrReg a bytes (s.setDesc d) = (runWrReg a bytes s).setDesc d := by
  rw [runWrReg, exchange_setDesc, Run.setDesc_map, runWrReg]

theorem runRdRxplw_setDesc (s : State) (d : DescTable) : runRdRxplw (s.setDesc d) = (runRdRxplw s).setDesc d := by
  rw [runRdRxplw, exchange_setDesc, Run.setDesc_map, runRdRxplw]

theorem runNop_setDesc (s : State) (d : DescTable) : runNop (s.setDesc d) = (runNop s).setDesc d := by
  rw [runNop, exchange_setDesc, Run.setDesc_map, runNop]

theorem runReadRXPayload_setDesc (s : State) (d : DescTable) :
    runReadRXPayload (s.setDesc d) = (runReadRXPayload s).setDesc d := by
  rw [runReadRXPayload, runRdRxplw_setDesc, runReadRXPayload]
  refine Run.setDesc_bind _ d fun t w => ?_
  by_cases hempty : w = 0
  · simp only [if_pos hempty]
    rfl
  · simp only [if_neg hempty]
    by_cases hwide : w.toNat > 32
    · simp only [if_pos hwide]
      rfl
    · simp only [if_neg hwide]
      rw [exchange_setDesc, Run.setDesc_map]

theorem pollWith_setDesc (b : Byte) (s : State) (d : DescTable) :
    pollWith b (s.setDesc d) = (pollWith b s).setDesc d := by
  unfold pollWith
  cases pollArm b with
  | received =>
    rw [runReadRXPayload_setDesc]
    exact Run.setDesc_close _ d fun _ _ => rfl
  | sent => rfl
  | retransmitLimitExceeded => rfl
  | idle => rfl

/-- One exchange and a completion, the whole of several operations. -/
theorem exchange_complete_setDesc (tx : List Byte) (s : State) (d : DescTable) :
    (exchange tx (s.setDesc d)).close (fun u _ => complete [] u) =
      ((exchange tx s).close fun u _ => complete [] u).setDesc d := by
  rw [exchange_setDesc]
  exact Run.setDesc_close _ d fun _ _ => rfl

theorem writeTXPayloadBody_setDesc (payload : List Byte) (s : State) (d : DescTable) :
    writeTXPayloadBody payload (s.setDesc d) = (writeTXPayloadBody payload s).setDesc d := by
  unfold writeTXPayloadBody
  cases validatePayload payload with
  | error e => rfl
  | ok _ => exact exchange_complete_setDesc _ s d

theorem readRXPayloadWidthBody_setDesc (s : State) (d : DescTable) :
    readRXPayloadWidthBody (s.setDesc d) = (readRXPayloadWidthBody s).setDesc d := by
  unfold readRXPayloadWidthBody
  rw [runRdRxplw_setDesc]
  exact Run.setDesc_close _ d fun _ _ => rfl

theorem readRXPayloadBody_setDesc (s : State) (d : DescTable) :
    readRXPayloadBody (s.setDesc d) = (readRXPayloadBody s).setDesc d := by
  unfold readRXPayloadBody
  rw [runReadRXPayload_setDesc]
  exact Run.setDesc_close _ d fun _ _ => rfl

theorem readStateBody_setDesc (s : State) (d : DescTable) :
    readStateBody (s.setDesc d) = (readStateBody s).setDesc d := by
  unfold readStateBody
  rw [runNop_setDesc]
  exact Run.setDesc_close _ d fun _ _ => rfl

theorem processStateBody_setDesc (s : State) (d : DescTable) :
    processStateBody (s.setDesc d) = (processStateBody s).setDesc d := by
  unfold processStateBody
  rw [runNop_setDesc]
  exact Run.setDesc_close _ d fun u b => pollWith_setDesc b u d

theorem sendFrame_setDesc (tx : List Byte) (s : State) (d : DescTable) :
    sendFrame tx (s.setDesc d) = (sendFrame tx s).setDesc d := by
  have hexchange := exchange_setDesc tx (s.setSeq ⟨none, 0, .frame⟩) d
  calc sendFrame tx (s.setDesc d)
      = (exchange tx ((s.setSeq ⟨none, 0, .frame⟩).setDesc d)).close fun t _ => t.setSeq Seq.rest := rfl
    _ = (sendFrame tx s).setDesc d := by
      rw [hexchange]
      exact Run.setDesc_close _ d fun _ _ => rfl

/-! ### Parts that read sizes -/

section
variable {s : State} {d : DescTable} (hsize : ∀ a, d.sizeOf a = s.desc.sizeOf a)
include hsize

theorem runRdReg_setDesc (a : BitVec 5) : runRdReg a (s.setDesc d) = (runRdReg a s).setDesc d := by
  have hframe : frameRdReg d a = frameRdReg s.desc a := by rw [frameRdReg, hsize, frameRdReg]
  rw [runRdReg, State.setDesc_desc, hframe, exchange_setDesc, Run.setDesc_map, runRdReg]

theorem readRegisterBody_setDesc (address : Byte) :
    readRegisterBody address (s.setDesc d) = (readRegisterBody address s).setDesc d := by
  have hvalid : validateRead d address = validateRead s.desc address := by rw [validateRead, hsize, validateRead]
  unfold readRegisterBody
  rw [State.setDesc_desc, hvalid]
  cases validateRead s.desc address with
  | error e => rfl
  | ok _ =>
    dsimp only
    rw [runRdReg_setDesc hsize]
    exact Run.setDesc_close _ d fun _ _ => rfl

theorem writeRegisterBody_setDesc (address : Byte) (bytes : List Byte) :
    writeRegisterBody address bytes (s.setDesc d) = (writeRegisterBody address bytes s).setDesc d := by
  have hvalid : validateWrite d address bytes = validateWrite s.desc address bytes := by
    rw [validateWrite, hsize, validateWrite]
  unfold writeRegisterBody
  rw [State.setDesc_desc, hvalid]
  cases validateWrite s.desc address bytes with
  | error e => rfl
  | ok _ =>
    dsimp only
    rw [runWrReg_setDesc]
    exact Run.setDesc_close _ d fun _ _ => rfl

theorem changeMode_setDesc (f : Byte → Byte) : changeMode f (s.setDesc d) = (changeMode f s).setDesc d := by
  unfold changeMode
  rw [runRdReg_setDesc hsize, Run.setDesc_bind _ d fun t bytes => runWrReg_setDesc 0 _ t d]
  exact Run.setDesc_close _ d fun _ _ => rfl

theorem wellFormed_of_sizes (i : Instr) : wellFormed d i = wellFormed s.desc i := by
  cases i with
  | wireWrReg a bytes => simp only [wellFormed, hsize]
  | _ => rfl

theorem encode_of_sizes (i : Instr) : encode d i = encode s.desc i := by
  cases i with
  | wireRdReg a => simp only [encode, frameRdReg, hsize]
  | _ => rfl

end

/-! ### Admission -/

/-- A busy block ignores a well-formed wire command. -/
theorem acceptFrame_busy {i : Instr} {s : State} (hw : wellFormed s.desc i = true) (hh : s.halted = none)
    (hp : s.seq.phase ≠ .idle) : acceptFrame i s = .next s := by
  simp [acceptFrame, hh, hw, State.busy, hp]

theorem acceptFrame_setDesc {i : Instr} {s t : State} {d : DescTable} (hsize : ∀ a, d.sizeOf a = s.desc.sizeOf a)
    (h : acceptFrame i s = .next t) : acceptFrame i (s.setDesc d) = .next (t.setDesc d) := by
  obtain ⟨hh, hw, hcases⟩ := acceptFrame_cases h
  have hw' : wellFormed (s.setDesc d).desc i = true := (wellFormed_of_sizes hsize i).trans hw
  rcases hcases with ⟨hp, rfl⟩ | ⟨hp, rfl⟩
  · rw [acceptFrame_ready hw' hh hp, State.setDesc_desc, encode_of_sizes hsize, sendFrame_setDesc]
  · exact acceptFrame_busy hw' hh hp

theorem accept_setDesc {op : HostOp} {body : State → State} {s t : State} {d : DescTable}
    (hbody : body ((s.setSeq ⟨some op, 0, .check⟩).setDesc d) = (body (s.setSeq ⟨some op, 0, .check⟩)).setDesc d)
    (h : accept op body s = .next t) : accept op body (s.setDesc d) = .next (t.setDesc d) := by
  obtain ⟨hh, ⟨hp, rfl⟩ | ⟨hp, rfl⟩⟩ := accept_cases h
  · rw [← hbody]
    exact accept_ready hh hp
  · exact accept_busy hh hp

theorem exec_setDesc {i : Instr} {s t : State} {d : DescTable} (hsize : ∀ a, d.sizeOf a = s.desc.sizeOf a)
    (h : exec i s = .next t) : exec i (s.setDesc d) = .next (t.setDesc d) := by
  have hsize' : ∀ q a, d.sizeOf a = (s.setSeq q).desc.sizeOf a := fun _ => hsize
  cases i with
  | readRegister address => exact accept_setDesc (readRegisterBody_setDesc (hsize' _) address) h
  | writeRegister address bytes => exact accept_setDesc (writeRegisterBody_setDesc (hsize' _) address bytes) h
  | writeRegisterByte address byte => exact accept_setDesc (writeRegisterBody_setDesc (hsize' _) address [byte]) h
  | readRXPayloadWidth => exact accept_setDesc (readRXPayloadWidthBody_setDesc _ d) h
  | readRXPayload => exact accept_setDesc (readRXPayloadBody_setDesc _ d) h
  | writeTXPayload payload => exact accept_setDesc (writeTXPayloadBody_setDesc payload _ d) h
  | flushTX => exact accept_setDesc (body := flushTXBody) (exchange_complete_setDesc frameFlushTx _ d) h
  | flushRX => exact accept_setDesc (body := flushRXBody) (exchange_complete_setDesc frameFlushRx _ d) h
  | readState => exact accept_setDesc (readStateBody_setDesc _ d) h
  | getLastState => exact accept_setDesc (body := complete []) rfl h
  | receive => exact accept_setDesc (changeMode_setDesc (hsize' _) receiveConfig) h
  | transmit => exact accept_setDesc (changeMode_setDesc (hsize' _) transmitConfig) h
  | deactivateCE => exact accept_setDesc (body := deactivateCEBody) rfl h
  | processState => exact accept_setDesc (processStateBody_setDesc _ d) h
  | _ => exact acceptFrame_setDesc hsize h

/-- Settles O57: every instruction commutes with a change of table that keeps the sizes. -/
theorem maskAndNameAreNeverRead : Obligations.MaskAndNameAreNeverRead :=
  fun _ _ _ _ hsize h => exec_setDesc hsize h

end Sys2Proof.Machine

/-! The contents of the default table (10_state R21). -/

namespace Sys2Proof.Machine

/-- Settles O54, by evaluating the table at each of its 32 addresses. -/
theorem defaultTableHasTheSpecsEntries : Obligations.DefaultTableHasTheSpecsEntries := by
  refine ⟨?sizes, ?reserved, ?config⟩
  case sizes => decide
  case reserved => decide
  case config => rfl

end Sys2Proof.Machine

/-! One operation at a time (20_memory R64, R65): what an idle and a busy block do with an instruction, what an idle block
takes from its host port, and how much one step adds to the trace. -/

namespace Sys2Proof.Machine

/-! ### A busy block -/

/-- Settles O13: both admissions test BUSY before they run anything. -/
theorem busyBlockIgnoresOperation : Obligations.BusyBlockIgnoresOperation :=
  exec_ignored

/-! ### An idle block -/

/-- Neither admission turns a well-formed instruction away from an idle block. -/
theorem exec_ready {s : State} {i : Instr} (hready : s.Ready) (hw : wellFormed s.desc i = true) :
    ∃ t, exec i s = .next t := by
  obtain ⟨hh, hp⟩ := hready
  rcases exec_admission i with ⟨op, body, hexec⟩ | hexec
  · exact ⟨_, (hexec s).trans (accept_ready hh hp)⟩
  · exact ⟨_, (hexec s).trans (acceptFrame_ready hw hh hp)⟩

theorem WireEnds.phase_cases {s t : State} (hk : s.seq.k = 0) (h : WireEnds s t) :
    t.seq.phase = .idle ∨ t.seq.phase = .done ∨ t.seq.phase = .xchg := by
  cases h with
  | done _ _ => exact .inl rfl
  | broken hbroken => exact .inr (hbroken.finished hk).1

/-- The phase in which an idle block leaves the instruction it ran (40_transport R117, 60_exceptions R240). -/
theorem exec_phase_cases {i : Instr} {s t : State} (hp : s.seq.phase = .idle) (h : exec i s = .next t) :
    t.seq.phase = .done ∨ t.seq.phase = .xchg ∨ (i.space = .wire ∧ t.seq.phase = .idle) := by
  cases hs : i.space with
  | host =>
    obtain ⟨-, op, hends⟩ := exec_host_ends hs hp h
    exact (hends.finished rfl).1.imp_right .inl
  | wire =>
    rcases (exec_wire_ends hs hp h).2.phase_cases rfl with hidle | hdone | hstalled
    · exact .inr (.inr ⟨rfl, hidle⟩)
    · exact .inl hdone
    · exact .inr (.inl hstalled)

/-- Settles O16: admission answers a next state, and every end of an operation lies in one of the three phases. -/
theorem readyBlockRunsEveryInstruction : Obligations.ReadyBlockRunsEveryInstruction := by
  intro s i hready hw
  obtain ⟨t, h⟩ := exec_ready hready hw
  exact ⟨t, h, exec_phase_cases hready.2 h⟩

/-! ### The host port -/

theorem fetch_of_request {s : State} {i : Instr} {rest : List Byte} (hframe : s.frameIn = [])
    (hd : decodeRequest s.hostIn = .request i rest) : fetch s = .instr i (s.setHostIn rest) := by
  simp [fetch, hframe, fetchRequest, hd]

/-- An idle block runs the instruction it fetches, from the state in which its bytes have been taken. -/
theorem step_of_fetch_instr {s t : State} {i : Instr} (hready : s.Ready) (hfetch : fetch s = .instr i t) :
    step s = exec i t := by
  obtain ⟨hh, hp⟩ := hready
  simp [step, cycle, hh, hp, hfetch]

/-- Settles O7: with no command buffer the request is what the block fetches. -/
theorem stepRunsDecodedRequest : Obligations.StepRunsDecodedRequest :=
  fun _ _ _ hready hframe hd => step_of_fetch_instr hready (fetch_of_request hframe hd)

/-! ### What a step adds to the trace -/

theorem levels_of_exchanges {d : DescTable} {events : List Event} (h : ∀ e ∈ events, IsExchange d e) :
    events.filterMap Event.level = [] :=
  List.filterMap_eq_nil_iff.mpr fun e he => (h e he).level_eq_none

theorem Tail.levels_length_le {d : DescTable} {last : List Event} (h : Tail d last) :
    (last.filterMap Event.level).length ≤ 1 := by
  cases h with
  | none => exact Nat.zero_le 1
  | fail _ => exact Nat.zero_le 1
  | ce _ => exact Nat.le_refl 1

/-- A step ends its exchanges with a failed frame, or with an event that shows no frame, or with nothing. -/
theorem Tail.sent_cases {d : DescTable} {last : List Event} (h : Tail d last) :
    (∃ tx, last = [.xfail tx]) ∨ last.filterMap Event.sent = [] := by
  cases h with
  | none => exact .inr rfl
  | fail _ => exact .inl ⟨_, rfl⟩
  | ce _ => exact .inr rfl

theorem Changed.trace_growth {s t : State} (h : Changed s t) :
    ∃ events, t.trace = s.trace ++ events ∧ (events.filterMap Event.sent).length ≤ 3 ∧
      (events.filterMap Event.level).length ≤ 1 := by
  obtain ⟨events, last, htrace, hexchanges, htail, hthree, hfailed, -, -⟩ := h.trace
  have hsent : (events.filterMap Event.sent).length ≤ events.length := List.length_filterMap_le ..
  refine ⟨events ++ last, htrace, ?sent, ?level⟩
  case sent =>
    rw [List.filterMap_append, List.length_append]
    rcases htail.sent_cases with ⟨tx, rfl⟩ | hnone
    · have htwo : events.length ≤ 2 := hfailed tx rfl
      have hone : ([Event.xfail tx].filterMap Event.sent).length = 1 := rfl
      omega
    · rw [hnone, List.length_nil]
      omega
  case level =>
    rw [List.filterMap_append, levels_of_exchanges hexchanges, List.nil_append]
    exact htail.levels_length_le

/-- Settles O55: a step adds up to three exchanges and then at most one event more, which is a failed frame only after two
exchanges or fewer. -/
theorem stepAddsAtMostThreeExchanges : Obligations.StepAddsAtMostThreeExchanges :=
  fun _ _ h => (step_changed h).1.trace_growth

end Sys2Proof.Machine

/-! The wire frames (30_encoding R81 to R84, R95, R98): what the frame decoder answers to each byte 0, from which the round
trip, its converse and the bytes that are no command follow. -/

namespace Sys2Proof.Machine

/-! ### The decoder, by byte 0 -/

section
variable (d : DescTable) (rest : List Byte)

theorem decodeFrame_read {b : Byte} (hb : b &&& 0xE0 = 0x00) :
    decodeFrame d (b :: rest) =
      if rest = dummies (d.sizeOf (addressField b)) then .command (.wireRdReg (addressField b)) else .malformed :=
  if_pos hb

theorem decodeFrame_write {b : Byte} (hb : b &&& 0xE0 = 0x20) :
    decodeFrame d (b :: rest) =
      if rest.length ≤ d.sizeOf (addressField b) then .command (.wireWrReg (addressField b) rest)
      else .malformed := by
  have hread : ¬ b &&& 0xE0 = 0x00 := by rw [hb]; decide
  exact (if_neg hread).trans (if_pos hb)

theorem decodeFrame_rdRxplw :
    decodeFrame d (0x60 :: rest) = if rest = dummies 1 then .command .wireRdRxplw else .malformed := rfl

theorem decodeFrame_rdRxpl :
    decodeFrame d (0x61 :: rest) =
      if 1 ≤ rest.length ∧ rest.length ≤ 32 ∧ rest = dummies rest.length then .command (.wireRdRxpl rest.length)
      else .malformed := rfl

theorem decodeFrame_wrTxpl :
    decodeFrame d (0xA0 :: rest) =
      if 1 ≤ rest.length ∧ rest.length ≤ 32 then .command (.wireWrTxpl rest) else .malformed := rfl

theorem decodeFrame_flushTx :
    decodeFrame d (0xE1 :: rest) = if rest = [] then .command .wireFlushTx else .malformed := rfl

theorem decodeFrame_flushRx :
    decodeFrame d (0xE2 :: rest) = if rest = [] then .command .wireFlushRx else .malformed := rfl

theorem decodeFrame_nop :
    decodeFrame d (0xFF :: rest) = if rest = [] then .command .wireNop else .malformed := rfl

/-- Byte 0 belongs to one of the 8 commands (R81). -/
def IsOpcode (b : Byte) : Prop :=
  b &&& 0xE0 = 0x00 ∨ b &&& 0xE0 = 0x20 ∨ b = 0x60 ∨ b = 0x61 ∨ b = 0xA0 ∨ b = 0xE1 ∨ b = 0xE2 ∨ b = 0xFF

theorem decodeFrame_notOpcode {b : Byte} (hb : ¬ IsOpcode b) : decodeFrame d (b :: rest) = .notCommand b := by
  simp only [IsOpcode, not_or] at hb
  obtain ⟨hread, hwrite, hrdRxplw, hrdRxpl, hwrTxpl, hflushTx, hflushRx, hnop⟩ := hb
  rw [decodeFrame, if_neg hread, if_neg hwrite, if_neg hrdRxplw, if_neg hrdRxpl, if_neg hwrTxpl, if_neg hflushTx,
    if_neg hflushRx, if_neg hnop]

end

/-! ### The opcode byte of format WA (R82) -/

theorem opcodeByteWA_read_class : ∀ a : BitVec 5, opcodeByteWA 0 a &&& 0xE0 = 0x00 := by decide

theorem opcodeByteWA_write_class : ∀ a : BitVec 5, opcodeByteWA 1 a &&& 0xE0 = 0x20 := by decide

theorem addressField_opcodeByteWA_read : ∀ a : BitVec 5, addressField (opcodeByteWA 0 a) = a := by decide

theorem addressField_opcodeByteWA_write : ∀ a : BitVec 5, addressField (opcodeByteWA 1 a) = a := by decide

theorem opcodeByteWA_addressField_of_read :
    ∀ b : Byte, b &&& 0xE0 = 0x00 → opcodeByteWA 0 (addressField b) = b := by decide

theorem opcodeByteWA_addressField_of_write :
    ∀ b : Byte, b &&& 0xE0 = 0x20 → opcodeByteWA 1 (addressField b) = b := by decide

/-! ### From a command to its frame and back -/

/-- Settles O2: for each command, the decoder's answer to its byte 0, the test of the bytes after it met. -/
theorem wireFrameRoundTrip : Obligations.WireFrameRoundTrip := by
  intro d i hspace hw
  cases i with
  | wireRdReg a =>
    rw [encode, frameRdReg, decodeFrame_read d _ (opcodeByteWA_read_class a), addressField_opcodeByteWA_read,
      if_pos rfl]
  | wireWrReg a bytes =>
    have hlength : bytes.length ≤ d.sizeOf a := of_decide_eq_true hw
    rw [encode, frameWrReg, decodeFrame_write d _ (opcodeByteWA_write_class a), addressField_opcodeByteWA_write,
      if_pos hlength]
  | wireRdRxplw => exact (decodeFrame_rdRxplw d _).trans (if_pos rfl)
  | wireRdRxpl width =>
    obtain ⟨hpos, hle⟩ : 1 ≤ width ∧ width ≤ 32 := of_decide_eq_true hw
    rw [encode, frameRdRxpl, decodeFrame_rdRxpl, dummies_length, if_pos ⟨hpos, hle, rfl⟩]
  | wireWrTxpl payload =>
    have hlength : 1 ≤ payload.length ∧ payload.length ≤ 32 := of_decide_eq_true hw
    rw [encode, frameWrTxpl, decodeFrame_wrTxpl, if_pos hlength]
  | wireFlushTx => exact (decodeFrame_flushTx d _).trans (if_pos rfl)
  | wireFlushRx => exact (decodeFrame_flushRx d _).trans (if_pos rfl)
  | wireNop => exact (decodeFrame_nop d _).trans (if_pos rfl)
  | _ => cases hspace

/-- The bytes are the frame of this well-formed wire command. -/
def IsFrameOf (d : DescTable) (bytes : List Byte) (i : Instr) : Prop :=
  i.space = .wire ∧ wellFormed d i = true ∧ encode d i = bytes

/-- What the decoder answers to bytes that begin with an opcode: it rejects them or reads the command they are the frame
of. -/
def ReadsOwnFrame (d : DescTable) (bytes : List Byte) (answer : FrameDecode) : Prop :=
  answer = .malformed ∨ ∃ i, answer = .command i ∧ IsFrameOf d bytes i

theorem readsOwnFrame_ite {d : DescTable} {bytes : List Byte} {p : Prop} [Decidable p] {i : Instr}
    (h : p → IsFrameOf d bytes i) : ReadsOwnFrame d bytes (if p then .command i else .malformed) := by
  by_cases hp : p
  · rw [if_pos hp]
    exact .inr ⟨i, rfl, h hp⟩
  · rw [if_neg hp]
    exact .inl rfl

theorem decodeFrame_opcode (d : DescTable) (rest : List Byte) {b : Byte} (hb : IsOpcode b) :
    ReadsOwnFrame d (b :: rest) (decodeFrame d (b :: rest)) := by
  rcases hb with hread | hwrite | rfl | rfl | rfl | rfl | rfl | rfl
  · rw [decodeFrame_read d rest hread]
    exact readsOwnFrame_ite fun hdummies =>
      ⟨rfl, rfl, by rw [encode, frameRdReg, opcodeByteWA_addressField_of_read b hread, ← hdummies]⟩
  · rw [decodeFrame_write d rest hwrite]
    exact readsOwnFrame_ite fun hlength =>
      ⟨rfl, decide_eq_true hlength, by rw [encode, frameWrReg, opcodeByteWA_addressField_of_write b hwrite]⟩
  · rw [decodeFrame_rdRxplw]
    exact readsOwnFrame_ite fun hdummies => ⟨rfl, rfl, by rw [encode, frameRdRxplw, hdummies]⟩
  · rw [decodeFrame_rdRxpl]
    exact readsOwnFrame_ite fun ⟨hpos, hle, hdummies⟩ =>
      ⟨rfl, decide_eq_true ⟨hpos, hle⟩, by rw [encode, frameRdRxpl, ← hdummies]⟩
  · rw [decodeFrame_wrTxpl]
    exact readsOwnFrame_ite fun hlength => ⟨rfl, decide_eq_true hlength, rfl⟩
  · rw [decodeFrame_flushTx]
    exact readsOwnFrame_ite fun hnil => ⟨rfl, rfl, by rw [encode, frameFlushTx, hnil]⟩
  · rw [decodeFrame_flushRx]
    exact readsOwnFrame_ite fun hnil => ⟨rfl, rfl, by rw [encode, frameFlushRx, hnil]⟩
  · rw [decodeFrame_nop]
    exact readsOwnFrame_ite fun hnil => ⟨rfl, rfl, by rw [encode, frameNop, hnil]⟩

/-- Settles O3: bytes read as a command begin with an opcode, and then they are that command's own frame. -/
theorem wireFrameHasOneReading : Obligations.WireFrameHasOneReading := by
  intro d bytes i h
  cases bytes with
  | nil => cases h
  | cons b rest =>
    by_cases hb : IsOpcode b
    · rcases decodeFrame_opcode d rest hb with hmalformed | ⟨j, hj, hframe⟩
      · cases hmalformed.symm.trans h
      · cases hj.symm.trans h
        exact hframe
    · cases (decodeFrame_notOpcode d rest hb).symm.trans h

/-! ### Byte 0 values that are no command -/

theorem decodeFrame_notCommand_iff (d : DescTable) (b : Byte) (rest : List Byte) :
    decodeFrame d (b :: rest) = .notCommand b ↔ ¬ IsOpcode b := by
  refine ⟨fun h hb => ?_, decodeFrame_notOpcode d rest⟩
  rcases decodeFrame_opcode d rest hb with hmalformed | ⟨i, hi, -⟩
  · cases hmalformed.symm.trans h
  · cases hi.symm.trans h

/-- The opcodes leave four ranges of byte 0 free (R95); checked on the 256 values of a byte. -/
theorem not_isOpcode_iff : ∀ b : Byte, ¬ IsOpcode b ↔
    (0x40 ≤ b.toNat ∧ b.toNat ≤ 0x5F) ∨ (0x62 ≤ b.toNat ∧ b.toNat ≤ 0x9F) ∨
      (0xA1 ≤ b.toNat ∧ b.toNat ≤ 0xE0) ∨ (0xE3 ≤ b.toNat ∧ b.toNat ≤ 0xFE) := by
  unfold IsOpcode
  decide

/-- Settles O4: the decoder answers so exactly to the bytes that are no opcode. -/
theorem otherOpcodeBytesAreNoCommand : Obligations.OtherOpcodeBytesAreNoCommand :=
  fun d b rest => (decodeFrame_notCommand_iff d b rest).trans (not_isOpcode_iff b)

end Sys2Proof.Machine

/-! The wire stays clean (30_encoding R95, R98; 40_transport R110): every event a step adds is clean by itself. -/

namespace Sys2Proof.Machine

theorem IsFrame.decodes {d : DescTable} {tx : List Byte} (h : IsFrame d tx) : ∃ i, decodeFrame d tx = .command i := by
  obtain ⟨i, hspace, hw, rfl⟩ := h
  exact ⟨i, wireFrameRoundTrip d i hspace hw⟩

/-- What `State.WireClean` asks of one event. -/
def Event.Clean (d : DescTable) (e : Event) : Prop :=
  (∀ tx, e.sent = some tx → (∃ i, decodeFrame d tx = .command i) ∧ 1 ≤ tx.length ∧ tx.length ≤ 33) ∧
    ∀ tx rx, e = .x tx rx → rx.length = tx.length

theorem wireClean_iff (s : State) : s.WireClean ↔ ∀ e ∈ s.trace, e.Clean s.desc := by
  constructor
  · rintro ⟨hframes, hanswers⟩ e he
    exact ⟨hframes e he, fun tx rx hx => hanswers tx rx (hx ▸ he)⟩
  · intro h
    exact ⟨fun e he => (h e he).1, fun tx rx he => (h _ he).2 tx rx rfl⟩

theorem Event.clean_x {d : DescTable} {tx rx : List Byte} (hframe : IsFrame d tx) (hanswer : rx.length = tx.length) :
    (Event.x tx rx).Clean d := by
  refine ⟨?frame, ?answer⟩
  case frame =>
    rintro _ ⟨⟩
    exact ⟨hframe.decodes, hframe.length⟩
  case answer =>
    intro tx' rx' hx
    cases hx
    exact hanswer

theorem Event.clean_xfail {d : DescTable} {tx : List Byte} (hframe : IsFrame d tx) : (Event.xfail tx).Clean d := by
  refine ⟨?_, fun _ _ hx => nomatch hx⟩
  rintro _ ⟨⟩
  exact ⟨hframe.decodes, hframe.length⟩

theorem Event.clean_ce (d : DescTable) (level : Bool) : (Event.ce level).Clean d :=
  ⟨(fun _ hsent => nomatch hsent), fun _ _ hx => nomatch hx⟩

theorem IsExchange.clean {d : DescTable} {e : Event} (h : IsExchange d e) : e.Clean d := by
  obtain ⟨tx, rx, rfl, hframe, hanswer⟩ := h
  exact Event.clean_x hframe hanswer

theorem Tail.clean {d : DescTable} {last : List Event} (h : Tail d last) : ∀ e ∈ last, e.Clean d := by
  cases h with
  | none => exact fun _ he => nomatch he
  | fail hframe => exact List.forall_mem_singleton.mpr (Event.clean_xfail hframe)
  | ce level => exact List.forall_mem_singleton.mpr (Event.clean_ce d level)

theorem Changed.wireClean {s t : State} (h : Changed s t) (hs : s.WireClean) : t.WireClean := by
  obtain ⟨events, last, htrace, hexchanges, htail, -⟩ := h.trace
  rw [wireClean_iff] at hs ⊢
  rw [htrace, h.desc]
  simp only [List.mem_append]
  rintro e (hold | hexchange | hlast)
  · exact hs e hold
  · exact (hexchanges e hexchange).clean
  · exact htail.clean e hlast

/-- Settles O45: the trace a step adds is exchanges of frames of the block, then a failed frame or a CE event, and the
table is kept. -/
theorem stepKeepsWireClean : Obligations.StepKeepsWireClean :=
  fun _ _ hs h => (step_changed h).1.wireClean hs

end Sys2Proof.Machine

/-! The host requests (30_encoding R87, R88, R97): a whole request is read by its OP alone, its data bytes consumed. -/

namespace Sys2Proof.Machine

theorem requestDataLength_of_ne {op : Byte} (hop : op ≠ 0x02) (len : Byte) : requestDataLength op len = len.toNat :=
  if_neg hop

/-- What the decoder answers to a whole request, given the operation its OP selects. -/
theorem decodeRequest_whole {op addr len : Byte} {data : List Byte} (hdata : data.length = requestDataLength op len)
    (rest : List Byte) :
    decodeRequest (op :: addr :: len :: (data ++ rest)) =
      (hostOperation op addr data).elim (.illegal op rest) (.request · rest) := by
  have hwhole : ¬ (data ++ rest).length < data.length := by simp
  rw [decodeRequest, ← hdata, if_neg hwhole, List.take_left, List.drop_left]
  cases hostOperation op addr data <;> rfl

theorem decodeRequest_operation {op addr len : Byte} {data rest : List Byte} {i : Instr}
    (hdata : data.length = requestDataLength op len) (hop : hostOperation op addr data = some i) :
    decodeRequest (op :: addr :: len :: (data ++ rest)) = .request i rest := by
  rw [decodeRequest_whole hdata, hop, Option.elim_some]

theorem hostOperation_eq_none {op : Byte} (hop : 0x0D < op.toNat) (addr : Byte) (data : List Byte) :
    hostOperation op addr data = none := by
  obtain ⟨k, hk⟩ : ∃ k, op.toNat = k + 14 := ⟨op.toNat - 14, by omega⟩
  rw [hostOperation, hk]
  rfl

theorem decodeRequest_illegal {op addr len : Byte} {data rest : List Byte} (hop : 0x0D < op.toNat)
    (hdata : data.length = len.toNat) :
    decodeRequest (op :: addr :: len :: (data ++ rest)) = .illegal op rest := by
  have hne : op ≠ 0x02 := by
    rintro rfl
    exact absurd hop (by decide)
  rw [decodeRequest_whole (hdata.trans (requestDataLength_of_ne hne len).symm), hostOperation_eq_none hop,
    Option.elim_none]

/-- A request with the LEN of its data (R87). -/
theorem decodeRequest_requestBytes {op addr : Byte} {data : List Byte} {i : Instr} (hop : op ≠ 0x02)
    (hlength : data.length ≤ 255) (hi : hostOperation op addr data = some i) (rest : List Byte) :
    decodeRequest (requestBytes op addr data ++ rest) = .request i rest := by
  have hlen : (BitVec.ofNat 8 data.length).toNat = data.length := by
    rw [BitVec.toNat_ofNat]
    omega
  exact decodeRequest_operation (by rw [requestDataLength_of_ne hop, hlen]) hi

/-- Settles O1: each operation's OP selects it, and its LEN counts its data. -/
theorem hostRequestRoundTrip : Obligations.HostRequestRoundTrip := by
  intro d i rest hspace hw
  have bare {op addr : Byte} {i : Instr} (hop : op ≠ 0x02) (hi : hostOperation op addr [] = some i) :
      decodeRequest (requestBytes op addr [] ++ rest) = .request i rest :=
    decodeRequest_requestBytes hop (Nat.zero_le _) hi rest
  cases i with
  | writeRegister address bytes => exact decodeRequest_requestBytes (by decide) (of_decide_eq_true hw) rfl rest
  | writeTXPayload payload => exact decodeRequest_requestBytes (by decide) (of_decide_eq_true hw) rfl rest
  | writeRegisterByte address byte => exact decodeRequest_operation (data := [byte]) rfl rfl
  | readRegister _ | readRXPayloadWidth | readRXPayload | flushTX | flushRX | readState | getLastState | receive
  | transmit | deactivateCE | processState => exact bare (by decide) rfl
  | _ => cases hspace

/-- Settles O6: an OP other than that of the byte overload takes LEN data bytes, and what it selects does not use the rest
of the header. -/
theorem unusedRequestFieldsAreIgnored : Obligations.UnusedRequestFieldsAreIgnored := by
  intro addr len b data rest hdata
  have reads {op : Byte} {i : Instr} (hop : op ≠ 0x02) (hi : hostOperation op addr data = some i) :
      decodeRequest (op :: addr :: len :: (data ++ rest)) = .request i rest :=
    decodeRequest_operation (hdata.trans (requestDataLength_of_ne hop len).symm) hi
  have overload : decodeRequest (0x02 :: addr :: len :: b :: rest) = .request (.writeRegisterByte addr b) rest :=
    decodeRequest_operation (data := [b]) rfl rfl
  exact ⟨reads (by decide) rfl, overload, reads (by decide) rfl, reads (by decide) rfl, reads (by decide) rfl,
    reads (by decide) rfl, reads (by decide) rfl, reads (by decide) rfl, reads (by decide) rfl, reads (by decide) rfl,
    reads (by decide) rfl, reads (by decide) rfl, reads (by decide) rfl⟩

end Sys2Proof.Machine

/-! What a block does with what is at its ports and is no instruction (30_encoding R95, R97, R98), and how its response is
taken (R89). -/

namespace Sys2Proof.Machine

/-! ### A request that selects no operation -/

theorem fetch_of_illegal {s : State} {op : Byte} {rest : List Byte} (hframe : s.frameIn = [])
    (hd : decodeRequest s.hostIn = .illegal op rest) : fetch s = .illegal (s.setHostIn rest) := by
  simp [fetch, hframe, fetchRequest, hd]

theorem step_of_fetch_illegal {s t : State} (hready : s.Ready) (hfetch : fetch s = .illegal t) :
    step s = .next (illegalOperation t) := by
  obtain ⟨hh, hp⟩ := hready
  simp [step, cycle, hh, hp, hfetch]

/-- Settles O10: the request is taken whole, and the response that `raise` forms is all that changes. -/
theorem unknownOperationIsIllegal : Obligations.UnknownOperationIsIllegal := by
  intro s op addr len data rest hready hframe hop hdata hhostIn
  have hd : decodeRequest s.hostIn = .illegal op rest := by rw [hhostIn, decodeRequest_illegal hop hdata]
  refine ⟨illegalOperation (s.setHostIn rest), step_of_fetch_illegal hready (fetch_of_illegal hframe hd),
    respond_eq _ _ _ _ _, respond_err _ _ _ _ _, respond_event _ _ _ _ _, respond_len _ _ _ _ _, ?status⟩
  case status => exact fun hvalid => (respond_status _ _ _ _ _).trans (statusByte_valid hvalid)

/-! ### Bytes that are no frame -/

theorem step_of_fetch_noFrame {s : State} {r : Refusal} (hready : s.Ready) (hfetch : fetch s = .noFrame r) :
    step s = .refused r := by
  obtain ⟨hh, hp⟩ := hready
  simp [step, cycle, hh, hp, hfetch]

theorem fetch_of_notCommand {s : State} {b : Byte} (hd : decodeFrame s.desc s.frameIn = .notCommand b) :
    fetch s = .noFrame (.notWireCommand b) := by
  have hframe : s.frameIn ≠ [] := fun hnil => by
    rw [hnil] at hd
    cases hd
  simp [fetch, hframe, fetchFrame, hd]

theorem fetch_of_malformed {s : State} (hframe : s.frameIn ≠ []) (hd : decodeFrame s.desc s.frameIn = .malformed) :
    fetch s = .noFrame .malformedFrame := by
  simp [fetch, hframe, fetchFrame, hd]

theorem exec_wire {i : Instr} (hspace : i.space = .wire) (s : State) : exec i s = acceptFrame i s := by
  cases i with
  | wireRdReg _ | wireWrReg _ _ | wireRdRxplw | wireRdRxpl _ | wireWrTxpl _ | wireFlushTx | wireFlushRx | wireNop => rfl
  | _ => cases hspace

theorem acceptFrame_of_illFormed {i : Instr} {s : State} (hh : s.halted = none) (hw : wellFormed s.desc i = false) :
    acceptFrame i s = .refused .malformedFrame := by
  simp [acceptFrame, hh, hw]

/-- Settles O9: fetching names the refusal of a command buffer, admission that of ill-formed operands. -/
theorem nonFramesAreRefused : Obligations.NonFramesAreRefused := by
  refine ⟨?notCommand, ?malformed, ?illFormed⟩
  case notCommand => exact fun s b hready hd => step_of_fetch_noFrame hready (fetch_of_notCommand hd)
  case malformed => exact fun s hready hframe hd => step_of_fetch_noFrame hready (fetch_of_malformed hframe hd)
  case illFormed => exact fun s i hh hspace hw => (exec_wire hspace s).trans (acceptFrame_of_illFormed hh hw)

/-! ### The response -/

theorem step_of_done {s : State} (hh : s.halted = none) (hp : s.seq.phase = .done) :
    step s = .next (takeResponse s) := by
  simp [step, cycle, hh, hp]

/-- Settles O12: in phase DONE the cycle takes the response, whose bytes are those of R89. -/
theorem responseIsTaken : Obligations.ResponseIsTaken :=
  fun _ hh hp => step_of_done hh hp

end Sys2Proof.Machine

/-! Words written out from the encoding tables (30_encoding R81, R88). -/

namespace Sys2Proof.Machine

/-- Settles O5, by running the two decoders on the words. -/
theorem wordsOfTheSpecDecode : Obligations.WordsOfTheSpecDecode := by
  unfold Obligations.WordsOfTheSpecDecode
  decide

end Sys2Proof.Machine

/-! The status latch and the buffers (40_transport R112 to R114, R119): what a step leaves of them, read off
`step_changed`. -/

namespace Sys2Proof.Machine

/-! ### The status latch -/

theorem latestStatus_append (earlier later : List Event) :
    latestStatus (earlier ++ later) = (latestStatus later).or (latestStatus earlier) := by
  simp [latestStatus, List.getLast?_append]

theorem Tail.latestStatus_eq_none {d : DescTable} {last : List Event} (h : Tail d last) :
    latestStatus last = Option.none := by
  cases h <;> rfl

/-- LAST_STATUS and the trace move together: neither the latch nor the latest successful exchange changes, or the latch
holds the status byte of the new one. -/
theorem Changed.status_cases {s t : State} (h : Changed s t) :
    (latestStatus t.trace = latestStatus s.trace ∧ t.lastStatus = s.lastStatus ∧ t.lsValid = s.lsValid) ∨
      (latestStatus t.trace = some t.lastStatus ∧ t.lsValid = true) := by
  obtain ⟨events, last, htrace, -, htail, -, -, hlatch, -⟩ := h.trace
  have hlatest : latestStatus t.trace = (latestStatus events).or (latestStatus s.trace) := by
    rw [htrace, latestStatus_append, latestStatus_append, htail.latestStatus_eq_none, Option.none_or]
  rcases hlatch with ⟨rfl, hkept⟩ | ⟨hnew, hvalid⟩
  · exact .inl ⟨hlatest, hkept⟩
  · refine .inr ⟨?_, hvalid⟩
    rw [hlatest, latestStatus, hnew, Option.some_or]

theorem Changed.statusTrue {s t : State} (h : Changed s t) (hs : s.StatusTrue) : t.StatusTrue := by
  rcases h.status_cases with ⟨htrace, hstatus, hvalid⟩ | ⟨hnew, hvalid⟩
  · rw [State.StatusTrue, htrace, hstatus, hvalid]
    exact hs
  · rw [State.StatusTrue, hnew, if_pos hvalid]

/-- Settles O46: a step adds exchanges, the last of which was latched, and then at most one event without a status
byte. -/
theorem stepKeepsStatusTrue : Obligations.StepKeepsStatusTrue :=
  fun _ _ hs h => (step_changed h).1.statusTrue hs

/-! ### The buffers -/

/-- A re-initialised RXBUF shows dummy bytes. -/
theorem inFrame_of_empty {s : State} (hrx : s.rxbuf = bufferOf []) : ∃ n, s.inFrame = dummies n := by
  rw [State.inFrame, hrx, bufferOf_toList]
  exact ⟨_, by simp only [dummies, List.nil_append, List.take_replicate]; rfl⟩

theorem Buffered.clean {t : State} (h : Buffered t) : t.BuffersClean := by
  obtain ⟨tx, rx, htx, hrx, hxlen, hbound, hanswer⟩ := h
  refine ⟨?sent, ?received, ?bound⟩
  case sent => rw [outFrame_of htx hxlen (by omega), htx]
  case received =>
    rcases hanswer with hlength | rfl
    · rw [inFrame_of hrx (hlength ▸ hxlen) (by omega), hrx]
    · obtain ⟨n, hn⟩ := inFrame_of_empty hrx
      rw [hn, bufferOf_dummies, hrx]
  case bound => rwa [hxlen, xlen_toNat (by omega)]

theorem Changed.buffersClean {s t : State} (h : Changed s t) (hs : s.BuffersClean) : t.BuffersClean := by
  rcases h.buffers with ⟨htx, hrx, hxlen⟩ | hbuffered
  · rw [State.BuffersClean, State.outFrame, State.inFrame, htx, hrx, hxlen]
    exact hs
  · exact hbuffered.clean

/-- Settles O49: a step keeps the buffers and XLEN, or leaves them as the frame build and an answer fill them. -/
theorem stepKeepsBuffersClean : Obligations.StepKeepsBuffersClean :=
  fun _ _ hs h => (step_changed h).1.buffersClean hs

end Sys2Proof.Machine

/-! The first exchange of an instruction (40_transport R111 to R117): what each of the link's three answers to it
leaves, and how a stalled block is held. -/

namespace Sys2Proof.Machine

/-! ### A first exchange that ends the instruction -/

/-- An instruction whose first exchange ends it leaves the block as that exchange does. The phase in which the exchange
begins depends on the admission, and the exchange does not read it. -/
theorem exec_of_first_exchange_over {s t : State} {i : Instr} {tx : List Byte} (hready : s.Ready)
    (hframe : firstFrame s.desc i = some tx)
    (hover : ∀ phase, exchange tx (s.setSeq ⟨runningOp i, 0, phase⟩) = .over t) : exec i s = .next t := by
  obtain ⟨hh, hp⟩ := hready
  obtain ⟨-, ⟨-, op, body, hexec, hop, hbody⟩ | ⟨-, hw, rfl, hop, hexec⟩⟩ := firstFrame_starts hframe
  all_goals rw [hop] at hover
  · obtain ⟨g, hg⟩ := hbody (s.setSeq ⟨some op, 0, .check⟩) rfl
    rw [hexec, accept_ready hh hp, hg, hover, Run.close_over]
  · rw [hexec, acceptFrame_ready hw hh hp, sendFrame, hover, Run.close_over]

theorem firstFrame_length_le {d : DescTable} {i : Instr} {tx : List Byte} (h : firstFrame d i = some tx) :
    tx.length ≤ 64 := by
  have := (firstFrame_starts h).1.length
  omega

theorem exec_stalled_first {s : State} {i : Instr} {tx : List Byte} {more : List LinkAnswer} (hready : s.Ready)
    (hframe : firstFrame s.desc i = some tx) (hlink : s.link = .never :: more) :
    exec i s = .next { s.afterStall tx more with seq := ⟨runningOp i, 0, .xchg⟩ } :=
  exec_of_first_exchange_over hready hframe fun _ => exchange_stalled (firstFrame_length_le hframe) hlink

theorem exec_failed_first {s : State} {i : Instr} {tx : List Byte} {more : List LinkAnswer} (hready : s.Ready)
    (hframe : firstFrame s.desc i = some tx) (hlink : s.link = .fail :: more) :
    exec i s = .next (raise .transport { s.afterFailure tx more with seq := ⟨runningOp i, 0, .xchg⟩ }) :=
  exec_of_first_exchange_over hready hframe fun _ => exchange_failed (firstFrame_length_le hframe) hlink

/-- Settles O15: the failure ends the instruction, and the response that `raise` forms is all that changes beside it. -/
theorem firstExchangeFailureEndsInstruction : Obligations.FirstExchangeFailureEndsInstruction := by
  intro s i tx more hready hframe hlink
  refine ⟨_, exec_failed_first hready hframe hlink, respond_eq _ _ _ _ _, respond_err _ _ _ _ _,
    respond_event _ _ _ _ _, respond_len _ _ _ _ _, ?status⟩
  case status => exact fun hvalid => (respond_status _ _ _ _ _).trans (statusByte_valid hvalid)

/-! ### A stall -/

/-- Of the ways an exchange or a width fault can end an operation, only the stall leaves phase XCHG, and it forms no
response (R117). -/
theorem Broken.res_of_xchg {s t : State} (h : Broken s t) (hp : t.seq.phase = .xchg) : t.res = s.res := by
  cases h with
  | stalled hmid _ _ _ _ => exact hmid.res
  | failed _ _ _ _ _ => cases hp
  | width _ _ => cases hp

theorem Ends.res_of_xchg {s t : State} {level : Option Bool} (h : Ends s level t) (hp : t.seq.phase = .xchg) :
    t.res = s.res := by
  cases h with
  | broken hbroken => exact hbroken.res_of_xchg hp
  | _ => cases hp

theorem WireEnds.res_of_xchg {s t : State} (h : WireEnds s t) (hp : t.seq.phase = .xchg) : t.res = s.res := by
  cases h with
  | broken hbroken => exact hbroken.res_of_xchg hp
  | done _ _ => cases hp

theorem exec_res_of_xchg {i : Instr} {s t : State} (hidle : s.seq.phase = .idle) (h : exec i s = .next t)
    (hp : t.seq.phase = .xchg) : t.res = s.res := by
  cases hspace : i.space with
  | host =>
    obtain ⟨-, op, hends⟩ := exec_host_ends hspace hidle h
    exact hends.res_of_xchg hp
  | wire => exact (exec_wire_ends hspace hidle h).2.res_of_xchg hp

theorem step_of_xchg {s : State} (hh : s.halted = none) (hp : s.seq.phase = .xchg) : step s = .next s := by
  simp [step, cycle, hh, hp]

/-- A state that a step does not change is not changed by any number of steps. -/
theorem run_of_step_self {M : Host.Core} {s : M.State} (h : M.step s = .next s) : ∀ n, M.run n s = .next s
  | 0 => rfl
  | n + 1 => by
    rw [Host.Core.run, h]
    exact run_of_step_self h n

/-- Settles O14: the first exchange leaves the block in XCHG, no response is formed on the way there, and in XCHG
neither a step nor an instruction goes on. -/
theorem stalledExchangeHoldsTheBlock : Obligations.StalledExchangeHoldsTheBlock := by
  refine ⟨?first, ?noResult, ?held⟩
  case first => exact fun _ _ _ _ => exec_stalled_first
  case noResult => exact fun _ _ _ hready => exec_res_of_xchg hready.2
  case held =>
    intro s hh hp
    have hbusy : s.seq.phase ≠ .idle := by simp [hp]
    exact ⟨run_of_step_self (M := Sys2Proof.core) (step_of_xchg hh hp), fun i => exec_ignored s i hh hbusy⟩

/-! ### A wire command -/

theorem firstFrame_wire {d : DescTable} {i : Instr} {tx : List Byte} (hspace : i.space = .wire)
    (h : firstFrame d i = some tx) : wellFormed d i = true ∧ tx = encode d i := by
  obtain ⟨-, ⟨hhost, -⟩ | ⟨-, hw, htx, -⟩⟩ := firstFrame_starts h
  · cases hhost.symm.trans hspace
  · exact ⟨hw, htx⟩

/-- A wire command run by itself leaves its exchange, and SEQ at rest. -/
theorem sendFrame_answered {s : State} {tx rx : List Byte} {more : List LinkAnswer} (hbound : tx.length ≤ 64)
    (hlink : s.link = .ok rx :: more) (hlength : rx.length = tx.length) :
    sendFrame tx s = { s.afterExchange tx rx more with seq := Seq.rest, draws := s.draws + tx.length } := by
  rw [sendFrame, exchange_answered (s := s.setSeq ⟨none, 0, .frame⟩) hbound hlink hlength]
  rfl

theorem exec_wire_answered {s : State} {i : Instr} {tx rx : List Byte} {more : List LinkAnswer}
    (hspace : i.space = .wire) (hready : s.Ready) (hframe : firstFrame s.desc i = some tx)
    (hlink : s.link = .ok rx :: more) (hlength : rx.length = tx.length) :
    exec i s = .next { s.afterExchange tx rx more with seq := Seq.rest, draws := s.draws + tx.length } := by
  obtain ⟨hw, htx⟩ := firstFrame_wire hspace hframe
  rw [exec_wire hspace, acceptFrame_ready hw hready.1 hready.2, ← htx,
    sendFrame_answered (firstFrame_length_le hframe) hlink hlength]

/-- Settles O44: admission passes a well-formed command, and its frame is the one exchange it makes. -/
theorem wireCommandIsOneExchange : Obligations.WireCommandIsOneExchange := by
  intro s i tx rx more hspace hready hframe hlink hlength
  have hbound : rx.length ≤ 64 := hlength ▸ firstFrame_length_le hframe
  exact ⟨_, exec_wire_answered hspace hready hframe hlink hlength, rfl,
    inFrame_of rfl (congrArg (BitVec.ofNat 7) hlength.symm) hbound⟩

/-! ### The transport's port -/

theorem fetch_of_command {s : State} {i : Instr} (hd : decodeFrame s.desc s.frameIn = .command i) :
    fetch s = .instr i (s.setFrameIn []) := by
  have hframe : s.frameIn ≠ [] := fun hnil => by
    rw [hnil] at hd
    cases hd
  simp [fetch, hframe, fetchFrame, hd]

/-- Settles O8: a command buffer is fetched before any request. -/
theorem stepRunsPreparedFrame : Obligations.StepRunsPreparedFrame :=
  fun _ _ hready hd => step_of_fetch_instr hready (fetch_of_command hd)

end Sys2Proof.Machine

/-! Register access (41_register R130 to R140): the outcome of the validator, the one exchange an accepted operation
makes, and the errors it can end with. -/

namespace Sys2Proof.Machine

/-! ### How a host operation ends -/

/-- A host operation that raises an error before any exchange changes SEQ, RES and the count of free values alone. -/
theorem accept_raises {op : HostOp} {body : State → State} {s : State} {e : ErrKind} (hready : s.Ready)
    (hbody : ∀ u : State, u.desc = s.desc → body u = raise e u) :
    ∃ t, accept op body s = .next t ∧ t = { s with seq := ⟨some op, 0, .done⟩, res := t.res, draws := t.draws } ∧
      t.res.err = e.code ∧ t.res.event = 0 ∧ t.res.len = 0 :=
  ⟨raise e (s.setSeq ⟨some op, 0, .check⟩), by rw [accept_ready hready.1 hready.2, hbody _ (s.setSeq_desc _)],
    respond_eq _ _ _ _ _, respond_err _ _ _ _ _, respond_event _ _ _ _ _, respond_len _ _ _ _ _⟩

/-- The response to a success after an exchange: STATUS is the status latched last. -/
theorem complete_says {u : State} {data : List Byte} (hvalid : u.lsValid = true) (hdata : data.length ≤ 32) :
    (complete data u).res.Says 0 u.lastStatus 0 data := by
  refine ⟨rfl, (respond_status _ _ _ _ _).trans (statusByte_valid hvalid), rfl, ?length, respond_payload _ _ _ hdata _⟩
  case length =>
    rw [complete, respond_len, BitVec.toNat_ofNat]
    omega

/-- What an operation that is one exchange does once accepted; `result` reads its data off the answer. -/
def oneExchange (tx : List Byte) (result : List Byte → List Byte) (u : State) : State :=
  (exchange tx u).close fun v rx => complete (result rx) v

/-- A host operation that is one exchange, once its answer is there. -/
theorem accept_oneExchange {op : HostOp} {body : State → State} {s : State} {tx rx : List Byte}
    {more : List LinkAnswer} {result : List Byte → List Byte} (hready : s.Ready)
    (hbody : ∀ u : State, u.desc = s.desc → body u = oneExchange tx result u)
    (hbound : tx.length ≤ 64) (hlink : s.link = .ok rx :: more) (hlength : rx.length = tx.length) :
    accept op body s = .next (complete (result rx)
      { s.afterExchange tx rx more with seq := ⟨some op, 1, .decode⟩, draws := s.draws + tx.length }) := by
  rw [accept_ready hready.1 hready.2, hbody _ (s.setSeq_desc _), oneExchange,
    exchange_answered (s := s.setSeq ⟨some op, 0, .check⟩) hbound hlink hlength]
  rfl

/-- An operation that is one exchange, whatever the link answers, ends in success or with TransportError if it ends at
all: a stalled one does not (40_transport R116, R117). -/
theorem oneExchange_err {tx : List Byte} (hbound : tx.length ≤ 64) {u : State} {result : List Byte → List Byte}
    (hdone : (oneExchange tx result u).seq.phase = .done) :
    (oneExchange tx result u).res.err = 0 ∨ (oneExchange tx result u).res.err = ErrKind.transport.code := by
  unfold oneExchange at hdone ⊢
  obtain ⟨l, d, ⟨rx, -, hx⟩ | hx | hx⟩ := exchange_cases hbound u
  all_goals rw [hx] at hdone ⊢
  · exact .inl rfl
  · exact .inr rfl
  · cases hdone

theorem oneExchange_err_ne {tx : List Byte} (hbound : tx.length ≤ 64) {u : State}
    {result : List Byte → List Byte} {e : ErrKind} (he : e ≠ .transport)
    (hdone : (oneExchange tx result u).seq.phase = .done) : (oneExchange tx result u).res.err ≠ e.code := by
  rcases oneExchange_err hbound hdone with herr | herr
  all_goals
    rw [herr]
    revert he
    cases e <;> decide

/-! ### The bodies of the register operations, by the validator's outcome (R130 to R133) -/

theorem readRegisterBody_of_out_of_range {address : Byte} (ha : 31 < address.toNat) (u : State) :
    readRegisterBody address u = raise .protocolRange u := by
  rw [readRegisterBody, validateRead, if_pos ha]

theorem readRegisterBody_of_in_range {address : Byte} (ha : address.toNat ≤ 31) {d : DescTable} (u : State)
    (hd : u.desc = d) :
    readRegisterBody address u = oneExchange (address :: dummies (d.sizeOf (addressField address))) dataOf u := by
  subst hd
  rw [readRegisterBody, validateRead, if_neg (by omega)]
  simp only [runRdReg, Run.map_close, frameRdReg, opcodeByteWA_read address ha, oneExchange]

theorem writeRegisterBody_of_out_of_range {address : Byte} (ha : 31 < address.toNat) (bytes : List Byte) (u : State) :
    writeRegisterBody address bytes u = raise .protocolRange u := by
  rw [writeRegisterBody, validateWrite, if_pos ha]

section
variable {address : Byte} (ha : address.toNat ≤ 31) {bytes : List Byte} {d : DescTable}
include ha

theorem writeRegisterBody_of_overlong (hb : d.sizeOf (addressField address) < bytes.length) (u : State)
    (hd : u.desc = d) : writeRegisterBody address bytes u = raise .sizeMismatch u := by
  subst hd
  rw [writeRegisterBody, validateWrite, if_neg (by omega), if_pos hb]

theorem writeRegisterBody_of_fits (hb : bytes.length ≤ d.sizeOf (addressField address)) (u : State)
    (hd : u.desc = d) :
    writeRegisterBody address bytes u = oneExchange ((0x20 ||| address) :: bytes) (fun _ => []) u := by
  subst hd
  rw [writeRegisterBody, validateWrite_ok ha hb]
  simp only [runWrReg, Run.map_close, frameWrReg, opcodeByteWA_write address ha, oneExchange]

end

theorem readFrame_length (address : Byte) (d : DescTable) :
    (address :: dummies (d.sizeOf (addressField address))).length = 1 + d.sizeOf (addressField address) := by
  rw [List.length_cons, dummies_length, Nat.add_comm]

theorem readFrame_length_le (address : Byte) (d : DescTable) :
    (address :: dummies (d.sizeOf (addressField address))).length ≤ 64 := by
  have := Laws.EncodeLength.sizeOf_le d (addressField address)
  rw [readFrame_length]
  omega

theorem writeFrame_length_le {address : Byte} {bytes : List Byte} {d : DescTable}
    (hb : bytes.length ≤ d.sizeOf (addressField address)) : ((0x20 ||| address) :: bytes).length ≤ 64 := by
  have := Laws.EncodeLength.sizeOf_le d (addressField address)
  simp only [List.length_cons]
  omega

/-! ### Reading a register (R134, R135) -/

/-- An accepted read is one exchange, and its result is the answer after the status byte. -/
theorem exec_readRegister_answered {s : State} {address : Byte} {rx : List Byte} {more : List LinkAnswer}
    (hready : s.Ready) (ha : address.toNat ≤ 31) (hlink : s.link = .ok rx :: more)
    (hlength : rx.length = 1 + s.desc.sizeOf (addressField address)) :
    exec (.readRegister address) s = .next (complete (rx.drop 1)
      { s.afterExchange (address :: dummies (s.desc.sizeOf (addressField address))) rx more with
        seq := ⟨some .readRegister, 1, .decode⟩
        draws := s.draws + (address :: dummies (s.desc.sizeOf (addressField address))).length }) :=
  accept_oneExchange hready (readRegisterBody_of_in_range ha) (readFrame_length_le address s.desc) hlink
    (hlength.trans (readFrame_length address s.desc).symm)

/-- Settles O18: what `exec_readRegister_answered` gives, with a result short enough for DATA. -/
theorem readRegisterReturnsRegisterBytes : Obligations.ReadRegisterReturnsRegisterBytes := by
  intro s address rx more hready ha hlink hlength
  have hresult : (rx.drop 1).length ≤ 32 := by
    have := Laws.EncodeLength.sizeOf_le s.desc (addressField address)
    rw [List.length_drop]
    omega
  exact ⟨_, exec_readRegister_answered hready ha hlink hlength, respond_eq _ _ _ _ _, complete_says rfl hresult⟩

/-- Settles O19: the exchange latches its own status before STATUS is read, so both runs end in the same state. -/
theorem readRegisterIgnoresLastStatus : Obligations.ReadRegisterIgnoresLastStatus := by
  intro s address b v rx more hready ha hlink hlength
  rw [exec_readRegister_answered hready ha hlink hlength,
    exec_readRegister_answered (s := { s with lastStatus := b, lsValid := v }) hready ha hlink hlength]
  rfl

/-! ### Writing a register (R136 to R140) -/

/-- An accepted write of bytes that fit is one exchange of the opcode and those bytes, with no result. -/
theorem accept_writeRegisterBody_answered {op : HostOp} {s : State} {address : Byte} {bytes rx : List Byte}
    {more : List LinkAnswer} (hready : s.Ready) (ha : address.toNat ≤ 31)
    (hb : bytes.length ≤ s.desc.sizeOf (addressField address)) (hlink : s.link = .ok rx :: more)
    (hlength : rx.length = 1 + bytes.length) :
    ∃ t, accept op (writeRegisterBody address bytes) s = .next t ∧
      t = { s.afterExchange ((0x20 ||| address) :: bytes) rx more with
            seq := ⟨some op, 1, .done⟩, res := t.res, draws := t.draws } ∧
      t.res.Says 0 (rx.headD 0) 0 [] :=
  ⟨_, accept_oneExchange hready (writeRegisterBody_of_fits ha hb) (writeFrame_length_le hb) hlink
      (hlength.trans (Nat.add_comm 1 bytes.length)),
    respond_eq _ _ _ _ _, complete_says rfl (Nat.zero_le 32)⟩

/-- Settles O21: the sequence and the byte overload share their body, and one byte fits every register. -/
theorem writeRegisterSendsBytesGiven : Obligations.WriteRegisterSendsBytesGiven :=
  ⟨fun _ _ _ _ _ => accept_writeRegisterBody_answered,
    fun _ _ _ _ _ hready ha => accept_writeRegisterBody_answered (bytes := [_]) hready ha (one_le_sizeOf _ _)⟩

/-! ### Errors (R130, R132) -/

/-- What an operation accepted by an idle block ends in is what its body ends in. -/
theorem next_of_accept {op : HostOp} {body : State → State} {s t : State} (hready : s.Ready)
    (h : accept op body s = .next t) : t = body (s.setSeq ⟨some op, 0, .check⟩) := by
  rw [accept_ready hready.1 hready.2] at h
  exact (Host.Outcome.next.inj h).symm

theorem readRegisterBody_err_ne {address : Byte} (ha : address.toNat ≤ 31) {u : State} {e : ErrKind}
    (he : e ≠ .transport) (hdone : (readRegisterBody address u).seq.phase = .done) :
    (readRegisterBody address u).res.err ≠ e.code := by
  rw [readRegisterBody_of_in_range ha u rfl] at hdone ⊢
  exact oneExchange_err_ne (readFrame_length_le address u.desc) he hdone

theorem writeRegisterBody_err_ne {address : Byte} (ha : address.toNat ≤ 31) {bytes : List Byte} {u : State}
    {e : ErrKind} (he : e ≠ .transport) (hdone : (writeRegisterBody address bytes u).seq.phase = .done)
    (hb : bytes.length ≤ u.desc.sizeOf (addressField address)) :
    (writeRegisterBody address bytes u).res.err ≠ e.code := by
  rw [writeRegisterBody_of_fits ha hb u rfl] at hdone ⊢
  exact oneExchange_err_ne (writeFrame_length_le hb) he hdone

/-- With the address in range, a write is refused for its length or makes its exchange, and neither ends in
ProtocolRangeError. -/
theorem writeRegisterBody_err_ne_protocolRange {address : Byte} (ha : address.toNat ≤ 31) {bytes : List Byte}
    {u : State} (hdone : (writeRegisterBody address bytes u).seq.phase = .done) :
    (writeRegisterBody address bytes u).res.err ≠ ErrKind.protocolRange.code := by
  by_cases hb : bytes.length ≤ u.desc.sizeOf (addressField address)
  · exact writeRegisterBody_err_ne ha (by decide) hdone hb
  · rw [writeRegisterBody_of_overlong ha (Nat.lt_of_not_le hb) u rfl, raise, respond_err]
    decide

/-- Settles O20: the validator tests the whole address first, before the length and any exchange. -/
theorem addressAbove31IsRefused : Obligations.AddressAbove31IsRefused := by
  refine ⟨?above, ?within⟩
  case above =>
    rintro s address byte bytes op i hready ha (⟨rfl, rfl⟩ | ⟨rfl, rfl⟩ | ⟨rfl, rfl⟩)
    · exact accept_raises hready fun u _ => readRegisterBody_of_out_of_range ha u
    · exact accept_raises hready fun u _ => writeRegisterBody_of_out_of_range ha bytes u
    · exact accept_raises hready fun u _ => writeRegisterBody_of_out_of_range ha [byte] u
  case within =>
    rintro s t address byte bytes i hready ha (rfl | rfl | rfl) h hdone
    all_goals obtain rfl := next_of_accept hready h
    · exact readRegisterBody_err_ne ha (by decide) hdone
    · exact writeRegisterBody_err_ne_protocolRange ha hdone
    · exact writeRegisterBody_err_ne_protocolRange ha hdone

/-- Settles O22: the validator compares the length with the descriptor's size, and an exchange never ends in
SizeMismatchError. -/
theorem overlongRegisterWriteIsRefused : Obligations.OverlongRegisterWriteIsRefused := by
  refine ⟨?overlong, ?fits⟩
  case overlong =>
    exact fun s address bytes hready ha hb => accept_raises hready (writeRegisterBody_of_overlong ha hb)
  case fits =>
    intro s t address bytes hready ha hb h hdone
    obtain rfl := next_of_accept hready h
    exact writeRegisterBody_err_ne ha (by decide) hdone hb

end Sys2Proof.Machine

/-! Payload framing and FIFO flush (42_payload R150 to R160): the operations that are one exchange, the payload read by
the width its probe returns, and the errors a payload write can end with. -/

namespace Sys2Proof.Machine

/-! ### Operations that are one exchange -/

/-- A host operation that is one exchange, answered, changes the transport's state, SEQ, RES and the count of free values
alone, and its STATUS is the status byte of that exchange. -/
theorem accept_oneExchange_says {op : HostOp} {body : State → State} {s : State} {tx rx : List Byte}
    {more : List LinkAnswer} {result : List Byte → List Byte} (hready : s.Ready)
    (hbody : ∀ u, body u = oneExchange tx result u) (hbound : tx.length ≤ 64) (hlink : s.link = .ok rx :: more)
    (hlength : rx.length = tx.length) (hresult : (result rx).length ≤ 32) :
    ∃ t, accept op body s = .next t ∧
      t = { s.afterExchange tx rx more with seq := ⟨some op, 1, .done⟩, res := t.res, draws := t.draws } ∧
      t.res.Says 0 (rx.headD 0) 0 (result rx) :=
  ⟨_, accept_oneExchange hready (fun u _ => hbody u) hbound hlink hlength, respond_eq _ _ _ _ _,
    complete_says rfl hresult⟩

theorem readRXPayloadWidthBody_eq_oneExchange (u : State) :
    readRXPayloadWidthBody u = oneExchange frameRdRxplw (fun rx => [(dataOf rx).headD Config.dummyByte]) u := by
  rw [readRXPayloadWidthBody, runRdRxplw, Run.map_close, oneExchange]

theorem flushTXBody_eq_oneExchange (u : State) : flushTXBody u = oneExchange frameFlushTx (fun _ => []) u := rfl

theorem flushRXBody_eq_oneExchange (u : State) : flushRXBody u = oneExchange frameFlushRx (fun _ => []) u := rfl

/-- Settles O23: the width byte is the result of the probe's exchange, whatever its value. -/
theorem widthProbeReturnsByteAsReceived : Obligations.WidthProbeReturnsByteAsReceived :=
  fun _ _ _ _ hready hlink =>
    accept_oneExchange_says hready readRXPayloadWidthBody_eq_oneExchange (by decide) hlink rfl (by simp)

/-- Settles O30: each flush is its own opcode's exchange, without a result. -/
theorem flushesAreSingleByteExchanges : Obligations.FlushesAreSingleByteExchanges :=
  fun _ _ _ hready hlink =>
    ⟨accept_oneExchange_says hready flushTXBody_eq_oneExchange (by decide) hlink rfl (by decide),
      accept_oneExchange_says hready flushRXBody_eq_oneExchange (by decide) hlink rfl (by decide)⟩

/-! ### Writing a payload (R155, R156) -/

theorem writeTXPayloadBody_of_bad_length {payload : List Byte} (hbad : payload.length = 0 ∨ 32 < payload.length)
    (u : State) : writeTXPayloadBody payload u = raise .payloadLength u := by
  rw [writeTXPayloadBody, validatePayload, if_pos (by omega)]

theorem frameWrTxpl_length_le {payload : List Byte} (hmax : payload.length ≤ 32) :
    (frameWrTxpl payload).length ≤ 64 := by
  rw [frameWrTxpl, List.length_cons]
  omega

section
variable {payload : List Byte} (hpos : 1 ≤ payload.length) (hmax : payload.length ≤ 32)
include hpos hmax

theorem writeTXPayloadBody_of_good_length (u : State) :
    writeTXPayloadBody payload u = oneExchange (frameWrTxpl payload) (fun _ => []) u := by
  rw [writeTXPayloadBody, validatePayload, if_neg (by omega), oneExchange]

theorem writeTXPayloadBody_err_ne {u : State} {e : ErrKind} (he : e ≠ .transport)
    (hdone : (writeTXPayloadBody payload u).seq.phase = .done) :
    (writeTXPayloadBody payload u).res.err ≠ e.code := by
  rw [writeTXPayloadBody_of_good_length hpos hmax] at hdone ⊢
  exact oneExchange_err_ne (frameWrTxpl_length_le hmax) he hdone

end

/-- Settles O28: a payload that passes the length check is sent whole, in one exchange. -/
theorem writeTXPayloadSendsPayload : Obligations.WriteTXPayloadSendsPayload :=
  fun _ payload _ _ hready hpos hmax hlink hlength =>
    accept_oneExchange_says hready (writeTXPayloadBody_of_good_length hpos hmax) (frameWrTxpl_length_le hmax) hlink
      (hlength.trans (Nat.add_comm 1 payload.length)) (Nat.zero_le 32)

/-- Settles O29: the length is tested before the exchange, and an exchange never ends in PayloadLengthError. -/
theorem payloadLengthIsChecked : Obligations.PayloadLengthIsChecked := by
  refine ⟨?refused, ?accepted⟩
  case refused =>
    exact fun s payload hready hbad => accept_raises hready fun u _ => writeTXPayloadBody_of_bad_length hbad u
  case accepted =>
    intro s t payload hready hpos hmax h hdone
    obtain rfl := next_of_accept hready h
    exact writeTXPayloadBody_err_ne hpos hmax (by decide) hdone

/-! ### Reading a payload, by the width the probe returns (R152 to R154) -/

/-- The block after a width probe answered by `st` and `w`. -/
def afterProbe (s : State) (st w : Byte) (more : List LinkAnswer) : State :=
  moreExchange s frameRdRxplw [st, w] more (s.draws + 2)

theorem runRdRxplw_answered {s : State} {st w : Byte} {more : List LinkAnswer} (hlink : s.link = .ok [st, w] :: more) :
    runRdRxplw s = .on (afterProbe s st w more) w := by
  rw [runRdRxplw, exchange_answered (tx := frameRdRxplw) (by decide) hlink rfl]
  rfl

/-- A width of 0 ends the read after its probe (R153). -/
theorem runReadRXPayload_of_zero {s : State} {st : Byte} {more : List LinkAnswer}
    (hlink : s.link = .ok [st, 0] :: more) : runReadRXPayload s = .on (afterProbe s st 0 more) [] := by
  rw [runReadRXPayload, runRdRxplw_answered hlink, Run.bind_on, if_pos rfl]

theorem ne_zero_of_one_le_toNat {w : Byte} (hpos : 1 ≤ w.toNat) : w ≠ 0 := by
  rintro rfl
  exact absurd hpos (by decide)

section
variable {s : State} {st w : Byte} {more : List LinkAnswer} (hlink : s.link = .ok [st, w] :: more)
include hlink

theorem runReadRXPayload_of_above_32 (hwide : 32 < w.toNat) :
    runReadRXPayload s = .over (faultRxWidth (afterProbe s st w more)) := by
  have hne : w ≠ 0 := ne_zero_of_one_le_toNat (by omega)
  rw [runReadRXPayload, runRdRxplw_answered hlink, Run.bind_on, if_neg hne, if_pos hwide]

theorem runReadRXPayload_of_width (hpos : 1 ≤ w.toNat) (hmax : w.toNat ≤ 32) :
    runReadRXPayload s = (exchange (frameRdRxpl w.toNat) (afterProbe s st w more)).map dataOf := by
  rw [runReadRXPayload, runRdRxplw_answered hlink, Run.bind_on, if_neg (ne_zero_of_one_le_toNat hpos),
    if_neg (Nat.not_lt.mpr hmax)]

end

theorem frameRdRxpl_length (width : Nat) : (frameRdRxpl width).length = 1 + width := by
  rw [frameRdRxpl, List.length_cons, dummies_length, Nat.add_comm]

theorem frameRdRxpl_length_le {width : Nat} (hmax : width ≤ 32) : (frameRdRxpl width).length ≤ 64 := by
  rw [frameRdRxpl_length]
  omega

theorem runReadRXPayload_answered {s : State} {st w : Byte} {rx : List Byte} {more : List LinkAnswer}
    (hlink : s.link = .ok [st, w] :: .ok rx :: more) (hpos : 1 ≤ w.toNat) (hmax : w.toNat ≤ 32)
    (hlength : rx.length = 1 + w.toNat) :
    runReadRXPayload s =
      .on (moreExchange (afterProbe s st w (.ok rx :: more)) (frameRdRxpl w.toNat) rx more
        (s.draws + 2 + (frameRdRxpl w.toNat).length)) (rx.drop 1) := by
  rw [runReadRXPayload_of_width hlink hpos hmax,
    exchange_answered (s := afterProbe s st w (.ok rx :: more)) (frameRdRxpl_length_le hmax) rfl
      (hlength.trans (frameRdRxpl_length _).symm)]
  rfl

theorem runReadRXPayload_failed {s : State} {st w : Byte} {more : List LinkAnswer}
    (hlink : s.link = .ok [st, w] :: .fail :: more) (hpos : 1 ≤ w.toNat) (hmax : w.toNat ≤ 32) :
    runReadRXPayload s =
      .over (raise .transport
        (failedState (afterProbe s st w (.fail :: more)) (frameRdRxpl w.toNat) more (s.draws + 2))) := by
  rw [runReadRXPayload_of_width hlink hpos hmax,
    exchange_failed (s := afterProbe s st w (.fail :: more)) (frameRdRxpl_length_le hmax) rfl]
  rfl

theorem exec_readRXPayload {s : State} {r : Run (List Byte)} (hready : s.Ready)
    (hrun : runReadRXPayload (s.setSeq ⟨some .readRXPayload, 0, .check⟩) = r) :
    exec .readRXPayload s = .next (r.close fun u payload => complete payload u) := by
  subst hrun
  exact accept_ready hready.1 hready.2

/-- Settles O24: the read ends after its probe, as a success without data. -/
theorem emptyFifoReadMakesOneExchange : Obligations.EmptyFifoReadMakesOneExchange := by
  intro s st more hready hlink
  rw [exec_readRXPayload hready (runReadRXPayload_of_zero hlink), Run.close_on]
  exact ⟨_, rfl, respond_eq _ _ _ _ _, complete_says rfl (Nat.zero_le 32)⟩

/-- Settles O25: the second exchange brings the payload, at most the 32 bytes of DATA, and latches its own status. -/
theorem readRXPayloadReturnsPayload : Obligations.ReadRXPayloadReturnsPayload := by
  intro s st w rx more hready hlink hpos hmax hlength
  have hresult : (rx.drop 1).length ≤ 32 := by
    rw [List.length_drop]
    omega
  rw [exec_readRXPayload hready (runReadRXPayload_answered hlink hpos hmax hlength), Run.close_on]
  exact ⟨_, rfl, respond_eq _ _ _ _ _, complete_says rfl hresult⟩

/-! ### Errors after the probe (R154, R160) -/

/-- The response to an error after an exchange: STATUS is the status latched last, and there is no data. -/
theorem raise_says (e : ErrKind) {u : State} (hvalid : u.lsValid = true) :
    (raise e u).res.Says e.code u.lastStatus 0 [] :=
  ⟨rfl, (respond_status _ _ _ _ _).trans (statusByte_valid hvalid), rfl, rfl,
    respond_payload _ _ _ (data := []) (Nat.zero_le 32) _⟩

/-- Settles O27: the failed exchange latches nothing, so STATUS is that of the probe. -/
theorem payloadReadFailureKeepsProbeStatus : Obligations.PayloadReadFailureKeepsProbeStatus := by
  intro s st w more hready hlink hpos hmax
  rw [exec_readRXPayload hready (runReadRXPayload_failed hlink hpos hmax), Run.close_over]
  exact ⟨_, rfl, respond_eq _ _ _ _ _, raise_says .transport rfl⟩

/-- A width fault changes SEQ.phase, RES, the count of free values and the fault, and nothing else. -/
theorem faultRxWidth_eq (u : State) :
    faultRxWidth u =
      { u with
        seq := ⟨u.seq.op, u.seq.k, .done⟩
        res := (faultRxWidth u).res
        draws := u.draws + 34
        halted := some .rxWidthFault } := rfl

theorem faultRxWidth_says {u : State} (hvalid : u.lsValid = true) :
    (faultRxWidth u).res.Says 6 u.lastStatus 0 [] := raise_says .rxWidth hvalid

theorem step_faultRxWidth (u : State) : step (faultRxWidth u) = .fault .rxWidthFault := step_of_halted rfl

theorem runNop_answered {s : State} {st : Byte} {more : List LinkAnswer} (hlink : s.link = .ok [st] :: more) :
    runNop s = .on (moreExchange s frameNop [st] more (s.draws + 1)) st := by
  rw [runNop, exchange_answered (tx := frameNop) (by decide) hlink rfl]
  rfl

/-- A poll whose NOP exchange shows RX_DR reads a payload (45_event R212, R213). -/
theorem pollWith_of_rxDataReady {b : Byte} (hrx : b.getLsbD 6 = true) (s : State) :
    pollWith b s =
      (runReadRXPayload s).close fun u payload => completePoll (.received (rxPipeNumber b) payload) u := by
  have harm : pollArm b = .received := if_pos hrx
  rw [pollWith, harm]

theorem exec_processState_answered {s : State} {st : Byte} {more : List LinkAnswer} (hready : s.Ready)
    (hlink : s.link = .ok [st] :: more) :
    exec .processState s =
      .next (pollWith st
        (moreExchange (s.setSeq ⟨some .processState, 0, .check⟩) frameNop [st] more (s.draws + 1))) := by
  have hnop := runNop_answered (s := s.setSeq ⟨some .processState, 0, .check⟩) hlink
  have haccept : exec .processState s = .next (processStateBody (s.setSeq ⟨some .processState, 0, .check⟩)) :=
    accept_ready hready.1 hready.2
  rw [haccept, processStateBody, hnop, Run.close_on, State.setSeq_draws]

/-- Settles O26: both operations read the width by the same probe, and it ends in the fault. -/
theorem widthAbove32FaultsTheMachine : Obligations.WidthAbove32FaultsTheMachine := by
  refine ⟨?read, ?poll⟩
  case read =>
    intro s st w more hready hlink hwide
    rw [exec_readRXPayload hready (runReadRXPayload_of_above_32 hlink hwide), Run.close_over]
    exact ⟨_, rfl, faultRxWidth_eq _, faultRxWidth_says rfl, step_faultRxWidth _⟩
  case poll =>
    intro s st st' w more hready hlink hrx hwide
    rw [exec_processState_answered hready hlink, pollWith_of_rxDataReady hrx,
      runReadRXPayload_of_above_32 (s := moreExchange _ _ _ _ _) rfl hwide, Run.close_over]
    exact ⟨_, rfl, faultRxWidth_eq _, faultRxWidth_says rfl, step_faultRxWidth _⟩

end Sys2Proof.Machine

/-! The status probe, the cached status and the status decoders (43_status R170 to R178). -/

namespace Sys2Proof.Machine

/-! ### `readState` and `getLastState` (R170 to R173) -/

theorem readStateBody_eq_oneExchange (u : State) : readStateBody u = oneExchange frameNop (fun _ => []) u := by
  rw [readStateBody, runNop, Run.map_close, oneExchange]

/-- Settles O31: the body is the NOP's exchange, without a result. -/
theorem readStateSamplesStatus : Obligations.ReadStateSamplesStatus :=
  fun _ _ _ hready hlink =>
    accept_oneExchange_says hready readStateBody_eq_oneExchange (by decide) hlink rfl (Nat.zero_le 32)

/-- An accepted `getLastState` forms its response at once, with no exchange before it. -/
theorem exec_getLastState {s : State} (hready : s.Ready) :
    exec .getLastState s = .next (complete [] (s.setSeq ⟨some .getLastState, 0, .check⟩)) :=
  accept_ready hready.1 hready.2

/-- Settles O32: the response that `complete` forms is all that changes, and its STATUS is a read of LAST_STATUS. -/
theorem getLastStateMakesNoExchange : Obligations.GetLastStateMakesNoExchange := by
  intro s hready
  refine ⟨_, exec_getLastState hready, respond_eq _ _ _ _ _, respond_err _ _ _ _ _, respond_event _ _ _ _ _,
    respond_len _ _ _ _ _, ?status⟩
  case status => exact fun hvalid => (respond_status _ _ _ _ _).trans (statusByte_valid hvalid)

/-! ### The decoders (R174 to R178) -/

theorem rxPipeNumber_toNat (s : Byte) : (rxPipeNumber s).toNat = s.toNat / 2 % 8 := by
  rw [rxPipeNumber, BitVec.extractLsb'_toNat, Nat.shiftRight_eq_div_pow]

/-- Settles O33: four decoders are single bits, the pipe number is a field of three, and the examples are computed. -/
theorem decodersReadTheirBits : Obligations.DecodersReadTheirBits := by
  refine ⟨?fields, ?examples⟩
  case fields => exact fun s => ⟨rfl, rxPipeNumber_toNat s, rfl, rfl, rfl⟩
  case examples => decide

end Sys2Proof.Machine

/-! Mode transitions and CE (44_mode R190 to R201): the two CONFIG computations, the read and the write back of CONFIG that
`receive` and `transmit` share, and what drives CE. -/

namespace Sys2Proof.Machine

/-! ### The CONFIG computations (R196) -/

theorem receiveConfig_eq (c : Byte) : receiveConfig c = c ||| 0x03 :=
  BitVec.or_assoc c pwrUpMask primRxMask

theorem transmitConfig_eq (c : Byte) : transmitConfig c = (c &&& 0xFC) ||| 0x02 := rfl

theorem receiveConfig_upperBits (c : Byte) : (receiveConfig c).extractLsb' 2 6 = c.extractLsb' 2 6 := by
  have hset : (0x03 : Byte).extractLsb' 2 6 = 0#6 := by decide
  rw [receiveConfig_eq, BitVec.extractLsb'_or, hset, BitVec.or_zero]

theorem transmitConfig_upperBits (c : Byte) : (transmitConfig c).extractLsb' 2 6 = c.extractLsb' 2 6 := by
  have hkept : (0xFC : Byte).extractLsb' 2 6 = BitVec.allOnes 6 := by decide
  have hset : (0x02 : Byte).extractLsb' 2 6 = 0#6 := by decide
  rw [transmitConfig_eq, BitVec.extractLsb'_or, BitVec.extractLsb'_and, hkept, hset, BitVec.and_allOnes,
    BitVec.or_zero]

/-- The session mode reads two bits of CONFIG, and `receive` sets both. -/
theorem sessionMode_receiveConfig (c : Byte) : sessionMode true (receiveConfig c) = .receiving := by
  simp [sessionMode, receiveConfig_eq, Config.pwrUpBit, Config.primRxBit]

/-- `transmit` sets PWR_UP and clears PRIM_RX. -/
theorem sessionMode_transmitConfig (c : Byte) : sessionMode true (transmitConfig c) = .transmitting := by
  simp [sessionMode, transmitConfig_eq, Config.pwrUpBit, Config.primRxBit]

theorem sessionMode_of_pwrUp_clear {c : Byte} (hclear : c.getLsbD 1 = false) (ce : Bool) :
    sessionMode ce c = .idle := by
  rw [sessionMode, Config.pwrUpBit, hclear, Bool.and_false, if_neg Bool.false_ne_true]

/-- Settles O36: both computations write bits 1:0 alone, and the mode reads nothing else. -/
theorem configComputationsGiveTheirMode : Obligations.ConfigComputationsGiveTheirMode :=
  fun c => ⟨receiveConfig_upperBits c, transmitConfig_upperBits c, sessionMode_receiveConfig c,
    sessionMode_transmitConfig c, rfl, sessionMode_of_pwrUp_clear⟩

/-! ### The read and the write back of CONFIG (R194, R195) -/

theorem frameRdReg_length (d : DescTable) (a : BitVec 5) : (frameRdReg d a).length = 1 + d.sizeOf a := by
  rw [frameRdReg, List.length_cons, dummies_length, Nat.add_comm]

theorem frameRdReg_length_le (d : DescTable) (a : BitVec 5) : (frameRdReg d a).length ≤ 64 := by
  have := Laws.EncodeLength.sizeOf_le d a
  rw [frameRdReg_length]
  omega

theorem runRdReg_answered {s : State} {a : BitVec 5} {rx : List Byte} {more : List LinkAnswer}
    (hlink : s.link = .ok rx :: more) (hlength : rx.length = 1 + s.desc.sizeOf a) :
    runRdReg a s =
      .on (moreExchange s (frameRdReg s.desc a) rx more (s.draws + (frameRdReg s.desc a).length)) (rx.drop 1) := by
  rw [runRdReg, exchange_answered (frameRdReg_length_le s.desc a) hlink
    (hlength.trans (frameRdReg_length s.desc a).symm)]
  rfl

/-- The frame that writes back to CONFIG what `f` computes from the answer `rx` to its read. -/
def writeBackFrame (f : Byte → Byte) (rx : List Byte) : List Byte :=
  [0x20, f ((rx.drop 1).headD 0)]

theorem writeBackFrame_length_le (f : Byte → Byte) (rx : List Byte) : (writeBackFrame f rx).length ≤ 64 := by
  simp [writeBackFrame]

/-- The block after the read of CONFIG. -/
def afterConfigRead (s : State) (rx : List Byte) (more : List LinkAnswer) : State :=
  moreExchange s (frameRdReg s.desc 0) rx more (s.draws + (frameRdReg s.desc 0).length)

section
variable {s : State} {rx rx' : List Byte} {more : List LinkAnswer} (hread : rx.length = 1 + s.desc.sizeOf 0)
include hread

/-- After its read, a mode transition is the exchange of the write back, and only its success asserts CE. -/
theorem changeMode_of_read (f : Byte → Byte) (hlink : s.link = .ok rx :: more) :
    changeMode f s =
      (exchange (writeBackFrame f rx) (afterConfigRead s rx more)).close fun t _ => complete [] (assertCE t) := by
  rw [changeMode, runRdReg_answered hlink hread, Run.bind_on, runWrReg, Run.map_close]
  rfl

theorem changeMode_answered (f : Byte → Byte) (hlink : s.link = .ok rx :: .ok rx' :: more) (hwrite : rx'.length = 2) :
    changeMode f s =
      complete [] (assertCE (moreExchange (afterConfigRead s rx (.ok rx' :: more)) (writeBackFrame f rx) rx' more
        ((afterConfigRead s rx (.ok rx' :: more)).draws + 2))) := by
  rw [changeMode_of_read hread f hlink, exchange_answered (writeBackFrame_length_le f rx) rfl hwrite]
  rfl

theorem changeMode_write_failed (f : Byte → Byte) (hlink : s.link = .ok rx :: .fail :: more) :
    changeMode f s =
      raise .transport (failedState (afterConfigRead s rx (.fail :: more)) (writeBackFrame f rx) more
        (afterConfigRead s rx (.fail :: more)).draws) := by
  rw [changeMode_of_read hread f hlink, exchange_failed (writeBackFrame_length_le f rx) rfl]
  rfl

/-- An accepted mode transition whose two exchanges are answered shows the read, the write and then CE(1), in this order,
and its STATUS is that of the write. -/
theorem accept_changeMode_answered (op : HostOp) (f : Byte → Byte) (hready : s.Ready)
    (hlink : s.link = .ok rx :: .ok rx' :: more) (hwrite : rx'.length = 2) :
    ∃ t, accept op (changeMode f) s = .next t ∧
      t = { (s.afterExchange (frameRdReg s.desc 0) rx (.ok rx' :: more)).afterExchange
              (writeBackFrame f rx) rx' more with
            ceOut := true
            hold := 0
            trace := s.trace ++ [.x (frameRdReg s.desc 0) rx, .x (writeBackFrame f rx) rx', .ce true]
            seq := ⟨some op, 2, .done⟩, res := t.res, draws := t.draws } ∧
      t.res.Says 0 (rx'.headD 0) 0 [] := by
  have hbody := changeMode_answered (s := s.setSeq ⟨some op, 0, .check⟩) hread f hlink hwrite
  refine ⟨_, (accept_ready hready.1 hready.2).trans (congrArg _ hbody), ?state, complete_says rfl (Nat.zero_le 32)⟩
  case state =>
    rw [List.append_cons s.trace, List.append_cons (s.trace ++ _)]
    exact complete_assertCE _

end

/-- Settles O34: what every mode transition does, with the computation of `receive`. -/
theorem receiveSetsBothBitsThenAssertsCE : Obligations.ReceiveSetsBothBitsThenAssertsCE := by
  intro s rx rx' more hready hlink hread hwrite
  rw [← receiveConfig_eq]
  exact accept_changeMode_answered hread .receive receiveConfig hready hlink hwrite

/-- Settles O35: what every mode transition does, with the computation of `transmit`. -/
theorem transmitSetsPowerUpOnlyThenAssertsCE : Obligations.TransmitSetsPowerUpOnlyThenAssertsCE := by
  intro s rx rx' more hready hlink hread hwrite
  rw [← transmitConfig_eq]
  exact accept_changeMode_answered hread .transmit transmitConfig hready hlink hwrite

/-- Settles O37: the failed write ends the transition before CE is driven, and it latches nothing. -/
theorem configWriteFailureLeavesCE : Obligations.ConfigWriteFailureLeavesCE := by
  intro s rx more i op f hready hlink hread hop
  have hexec : exec i s = accept op (changeMode f) s := by
    rcases hop with ⟨rfl, rfl, rfl⟩ | ⟨rfl, rfl, rfl⟩ <;> rfl
  have hbody := changeMode_write_failed (s := s.setSeq ⟨some op, 0, .check⟩) hread f hlink
  exact ⟨_, (hexec.trans (accept_ready hready.1 hready.2)).trans (congrArg _ hbody), respond_eq _ _ _ _ _,
    raise_says .transport rfl⟩

/-! ### Lowering CE (R192, R198) -/

/-- Settles O38: DeassertCE is all the operation does before its response, and STATUS is a read of LAST_STATUS. -/
theorem deactivateCELowersCE : Obligations.DeactivateCELowersCE := by
  intro s hready
  have hexec : exec .deactivateCE s = .next (complete [] (deassertCE (s.setSeq ⟨some .deactivateCE, 0, .check⟩))) :=
    accept_ready hready.1 hready.2
  refine ⟨_, hexec, complete_deassertCE _, respond_err _ _ _ _ _, respond_event _ _ _ _ _, respond_len _ _ _ _ _,
    ?status⟩
  case status => exact fun hvalid => (respond_status _ _ _ _ _).trans (statusByte_valid hvalid)

/-! ### The cached status after a mode transition (R200) -/

/-- Neither the taking of a response nor `getLastState` after it makes an exchange, so LAST_STATUS is read as the operation
before left it. -/
theorem getLastState_after_response {t : State} (hh : t.halted = none) (hp : t.seq.phase = .done)
    (hvalid : t.lsValid = true) :
    ∃ u v, step t = .next u ∧ exec .getLastState u = .next v ∧ v.res.status = t.lastStatus ∧ v.trace = t.trace := by
  obtain ⟨v, hexec, hv, -, -, -, hstatus⟩ := getLastStateMakesNoExchange (takeResponse t) ⟨hh, rfl⟩
  exact ⟨takeResponse t, v, step_of_done hh hp, hexec, hstatus hvalid, by rw [hv]; rfl⟩

/-- Settles O39: the write of CONFIG is the last exchange of a mode transition, so its status is the one latched. -/
theorem lastStateAfterModeChangeIsWriteStatus : Obligations.LastStateAfterModeChangeIsWriteStatus := by
  intro s rx rx' more i hready hlink hread hwrite hi
  have hexec : ∃ op f, exec i s = accept op (changeMode f) s := by
    rcases hi with rfl | rfl
    · exact ⟨.receive, receiveConfig, rfl⟩
    · exact ⟨.transmit, transmitConfig, rfl⟩
  obtain ⟨op, f, hexec⟩ := hexec
  obtain ⟨t, hnext, ht, -⟩ := accept_changeMode_answered hread op f hready hlink hwrite
  have hh : t.halted = none := by rw [ht]; exact hready.1
  have hp : t.seq.phase = .done := by rw [ht]
  have hvalid : t.lsValid = true := by rw [ht]; rfl
  have hlast : t.lastStatus = rx'.headD 0 := by rw [ht]; rfl
  obtain ⟨u, v, htaken, hasked, hstatus, htrace⟩ := getLastState_after_response hh hp hvalid
  exact ⟨t, u, v, hexec.trans hnext, htaken, hasked, hstatus.trans hlast, htrace⟩

end Sys2Proof.Machine

/-! The event dispatch of a poll (45_event R210 to R218): the arm its first status byte chooses, and what the exchanges of
the Received arm add to it. -/

namespace Sys2Proof.Machine

/-! ### The arms without a packet (R212, R214) -/

/-- The result of a poll whose first status byte has RX_DR clear. -/
def packetlessResult (b : Byte) : PollResult :=
  if b.getLsbD 5 = true then .sent else if b.getLsbD 4 = true then .retransmitLimitExceeded else .idle

theorem packetlessResult_tag (b : Byte) :
    (packetlessResult b).tag = if b.getLsbD 5 = true then 2 else if b.getLsbD 4 = true then 3 else 0 := by
  rw [packetlessResult, apply_ite PollResult.tag, apply_ite PollResult.tag]
  rfl

theorem packetlessResult_payload (b : Byte) : (packetlessResult b).payload = [] := by
  rw [packetlessResult]
  split
  · rfl
  · split <;> rfl

/-- A poll whose NOP exchange shows RX_DR clear ends at once. -/
theorem pollWith_of_rxDataReady_clear {b : Byte} (hrx : b.getLsbD 6 = false) (s : State) :
    pollWith b s = completePoll (packetlessResult b) s := by
  have hclear : ¬ rxDataReady b = true := Bool.eq_false_iff.mp hrx
  rw [packetlessResult]
  by_cases hsent : b.getLsbD 5 = true
  · have harm : pollArm b = .sent := (if_neg hclear).trans (if_pos hsent)
    rw [pollWith, harm, if_pos hsent]
  · rw [if_neg hsent]
    by_cases hlimit : b.getLsbD 4 = true
    · have harm : pollArm b = .retransmitLimitExceeded :=
        (if_neg hclear).trans ((if_neg hsent).trans (if_pos hlimit))
      rw [pollWith, harm, if_pos hlimit]
    · have harm : pollArm b = .idle := (if_neg hclear).trans ((if_neg hsent).trans (if_neg hlimit))
      rw [pollWith, harm, if_neg hlimit]

/-- The response to a poll that succeeds: STATUS is the status latched last. -/
theorem completePoll_says {r : PollResult} {u : State} (hvalid : u.lsValid = true) (hpayload : r.payload.length ≤ 32) :
    (completePoll r u).res.Says 0 u.lastStatus r.tag r.payload := by
  refine ⟨rfl, (respond_status _ _ _ _ _).trans (statusByte_valid hvalid), rfl, ?length, respond_payload _ _ _ hpayload _⟩
  case length =>
    rw [completePoll, respond_len, BitVec.toNat_ofNat]
    omega

theorem completePoll_packetlessResult_says (b : Byte) {u : State} (hvalid : u.lsValid = true) :
    (completePoll (packetlessResult b) u).res.Says 0 u.lastStatus
      (if b.getLsbD 5 = true then 2 else if b.getLsbD 4 = true then 3 else 0) [] := by
  have hempty := packetlessResult_payload b
  have hsays := completePoll_says (r := packetlessResult b) hvalid (by simp [hempty])
  rwa [packetlessResult_tag, hempty] at hsays

/-- Settles O41: with RX_DR clear the response is formed right after the NOP exchange. -/
theorem pollWithoutPacketMakesOneExchange : Obligations.PollWithoutPacketMakesOneExchange := by
  intro s st more hready hlink hrx
  rw [exec_processState_answered hready hlink, pollWith_of_rxDataReady_clear hrx]
  exact ⟨_, rfl, respond_eq _ _ _ _ _, completePoll_packetlessResult_says st rfl⟩

/-! ### The fixed priority (R212, R218) -/

/-- An exchange that ends the operation leaves either a stalled block or a response with an error (40_transport R116, R117;
42_payload R154). -/
theorem Broken.err_ne_zero {s t : State} (h : Broken s t) (hdone : t.seq.phase = .done) : t.res.err ≠ 0 := by
  cases h with
  | failed =>
    show ErrKind.transport.code ≠ 0
    decide
  | stalled => cases hdone
  | width =>
    show ErrKind.rxWidth.code ≠ 0
    decide

/-- Once the first sample shows RX_DR, a poll that succeeds answers Received, whatever the later exchanges bring. -/
theorem pollWith_event_of_rxDataReady {b : Byte} (hrx : b.getLsbD 6 = true) {u : State}
    (hdone : (pollWith b u).seq.phase = .done) (herr : (pollWith b u).res.err = 0) : (pollWith b u).res.event = 1 := by
  rw [pollWith_of_rxDataReady hrx] at hdone herr ⊢
  rcases runReadRXPayload_sound (Mid.refl u) (Nat.zero_le 1) with ⟨v, _, payload, hrun, -⟩ | ⟨v, hrun, hbroken⟩
  · rw [hrun, Run.close_on]
    rfl
  · rw [hrun, Run.close_over] at hdone herr
    exact absurd herr (hbroken.err_ne_zero hdone)

/-- Settles O40: the arm is chosen on the first sample, and an arm that ends without an error reports its own event. -/
theorem pollPriorityIsFixed : Obligations.PollPriorityIsFixed := by
  intro s t st more hready hlink hexec hdone herr
  rw [exec_processState_answered hready hlink] at hexec
  cases hexec
  cases hrx : st.getLsbD 6 with
  | true => exact pollWith_event_of_rxDataReady hrx hdone herr
  | false =>
    rw [pollWith_of_rxDataReady_clear hrx, ← packetlessResult_tag]
    rfl

/-! ### The Received arm (R213, R215) -/

/-- A poll whose NOP exchange shows RX_DR is that exchange and then the payload read. -/
theorem exec_processState_received {s : State} {st : Byte} {more : List LinkAnswer} {r : Run (List Byte)}
    (hready : s.Ready) (hlink : s.link = .ok [st] :: more) (hrx : st.getLsbD 6 = true)
    (hrun : runReadRXPayload
      (moreExchange (s.setSeq ⟨some .processState, 0, .check⟩) frameNop [st] more (s.draws + 1)) = r) :
    exec .processState s =
      .next (r.close fun u payload => completePoll (.received (rxPipeNumber st) payload) u) := by
  rw [exec_processState_answered hready hlink, pollWith_of_rxDataReady hrx, hrun]

/-- The PIPE byte of a Received result is the pipe field of the sample, whatever its value (D28). -/
theorem completePoll_received_pipe (b : Byte) (payload : List Byte) (u : State) :
    (completePoll (.received (rxPipeNumber b) payload) u).res.pipe.toNat = b.toNat / 2 % 8 := by
  have hpipe : (completePoll (.received (rxPipeNumber b) payload) u).res.pipe = (rxPipeNumber b).setWidth 8 :=
    respond_pipe _ _ _ _ _
  rw [hpipe, BitVec.toNat_setWidth_of_le (by decide), rxPipeNumber_toNat]

/-- Settles O42: the payload read brings the data and the last status, and the pipe is that of the first sample. -/
theorem pollDeliversPacketWithFirstPipe : Obligations.PollDeliversPacketWithFirstPipe := by
  refine ⟨?packet, ?empty⟩
  case packet =>
    intro s st st' w rx more hready hlink hrx hpos hmax hlength
    have hpayload : (rx.drop 1).length ≤ 32 := by
      rw [List.length_drop]
      omega
    rw [exec_processState_received hready hlink hrx (runReadRXPayload_answered rfl hpos hmax hlength), Run.close_on]
    exact ⟨_, rfl, respond_eq _ _ _ _ _, completePoll_says rfl hpayload, completePoll_received_pipe _ _ _⟩
  case empty =>
    intro s st st' more hready hlink hrx
    rw [exec_processState_received hready hlink hrx (runReadRXPayload_of_zero rfl), Run.close_on]
    exact ⟨_, rfl, respond_eq _ _ _ _ _, completePoll_says rfl (Nat.zero_le 32), completePoll_received_pipe _ _ _⟩

theorem runReadRXPayload_probe_failed {s : State} {more : List LinkAnswer} (hlink : s.link = .fail :: more) :
    runReadRXPayload s = .over (raise .transport (failedState s frameRdRxplw more s.draws)) := by
  rw [runReadRXPayload, runRdRxplw, exchange_failed (tx := frameRdRxplw) (by decide) hlink]
  rfl

/-- Settles O43: either failure raises its error in place of the Received result, and latches no status. -/
theorem pollFailureReportsNoEvent : Obligations.PollFailureReportsNoEvent := by
  refine ⟨?probe, ?payload⟩
  case probe =>
    intro s st more hready hlink hrx
    rw [exec_processState_received hready hlink hrx (runReadRXPayload_probe_failed rfl), Run.close_over]
    exact ⟨_, rfl, respond_eq _ _ _ _ _, raise_says .transport rfl⟩
  case payload =>
    intro s st st' w more hready hlink hrx hpos hmax
    rw [exec_processState_received hready hlink hrx (runReadRXPayload_failed rfl hpos hmax), Run.close_over]
    exact ⟨_, rfl, respond_eq _ _ _ _ _, raise_says .transport rfl⟩

end Sys2Proof.Machine

/-! Errors (60_exceptions R231, R240, R241): how a host operation that ends with an error got there, and what RES may
carry after a step. -/

namespace Sys2Proof.Machine

/-! ### A host operation that ends with an error (R240, R241) -/

/-- A failed exchange and a width fault both end in `raise`, with CE_OUT as it was; a stall presents no response. -/
theorem Broken.raised {s t : State} (h : Broken s t) (hdone : t.seq.phase = .done) :
    ∃ e u, u.ceOut = s.ceOut ∧ t = (raise e u).setHalted t.halted := by
  cases h with
  | @failed u _ hmid tx _ l d _ => exact ⟨.transport, failedState u tx l d, hmid.ceOut, rfl⟩
  | stalled => cases hdone
  | width hmid => exact ⟨.rxWidth, _, hmid.ceOut, rfl⟩

/-- Only `raise` presents an error, and no operation has driven CE_OUT before it: `assertCE` and `deassertCE` come last,
with nothing after them that can fail (44_mode R199). -/
theorem Ends.raised {s t : State} {level : Option Bool} (h : Ends s level t) (hdone : t.seq.phase = .done)
    (herr : t.res.err ≠ 0) : ∃ e u, u.ceOut = s.ceOut ∧ t = (raise e u).setHalted t.halted := by
  cases h with
  | broken hbroken => exact hbroken.raised hdone
  | refused e => exact ⟨e, s, rfl, rfl⟩
  | done | polled | raisedCE | loweredCE => exact absurd rfl herr

/-- Settles O17: the operation ended in `raise`, which forms a response without event and data and writes no CE_OUT. -/
theorem errorLeavesLevelAndCarriesNoResult : Obligations.ErrorLeavesLevelAndCarriesNoResult := by
  intro s t i hready hspace hexec hdone herr
  obtain ⟨-, op, hends⟩ := exec_host_ends hspace hready.2 hexec
  obtain ⟨e, u, hce, ht⟩ := hends.raised hdone herr
  rw [ht]
  refine ⟨hce, respond_event _ _ _ _ _, respond_len _ _ _ _ _, ?status⟩
  case status =>
    intro hvalid
    obtain ⟨-, hstatus, -⟩ := raise_says e (u := u) hvalid
    exact hstatus

/-! ### The result registers (R231, R240) -/

theorem Changed.resSound {s t : State} (h : Changed s t) (hs : s.ResSound) : t.ResSound := by
  rcases h.res with hkept | hsound
  · rw [State.ResSound, hkept]
    exact hs
  · exact hsound

/-- Settles O50: a step keeps RES, or forms a response, and every response it can form is sound. -/
theorem stepKeepsResSound : Obligations.StepKeepsResSound :=
  fun _ _ hs h => (step_changed h).1.resSound hs

end Sys2Proof.Machine

/-! The launch state (70_reset R261, R262): what reset leaves, and the idle block that waits for its first request. -/

namespace Sys2Proof.Machine

/-! ### Waiting for a whole request (R261) -/

theorem fetch_of_incomplete {s : State} (hframe : s.frameIn = []) (hd : decodeRequest s.hostIn = .incomplete) :
    fetch s = .waiting := by
  simp [fetch, hframe, fetchRequest, hd]

theorem step_of_fetch_waiting {s : State} (hready : s.Ready) (hfetch : fetch s = .waiting) : step s = .next s := by
  obtain ⟨hh, hp⟩ := hready
  simp [step, cycle, hh, hp, hfetch]

/-- Settles O11: with no command buffer and no whole request the block finds nothing to run. -/
theorem idleBlockWaitsForWholeRequest : Obligations.IdleBlockWaitsForWholeRequest :=
  fun _ hready hframe hd => step_of_fetch_waiting hready (fetch_of_incomplete hframe hd)

/-! ### The state after reset (R261, R262) -/

/-- The buffers after reset are those of an exchange of no bytes (log 7). -/
theorem reset_buffered : Buffered State.reset := by
  have hzero : Vector.replicate 64 0 = bufferOf [] := by decide
  exact ⟨[], [], hzero, hzero, rfl, by decide, .inl rfl⟩

theorem reset_wireClean : State.reset.WireClean :=
  (wireClean_iff _).mpr fun _ he => nomatch he

theorem reset_levelTrue : State.reset.LevelTrue := fun _ hl => nomatch hl

theorem reset_resSound : State.reset.ResSound := by
  refine ⟨?err, ?event, ?len, ?noError, ?noEvent⟩
  case err | event | len => decide
  case noError => exact fun herr => absurd rfl herr
  case noEvent => exact fun hevent => absurd rfl hevent

/-- Settles O52: the predicates on the trace hold of the empty one, SEQ is at rest, RES is all zero, and no fault is
reached. -/
theorem resetMeetsEveryPredicate : Obligations.ResetMeetsEveryPredicate := by
  refine ⟨reset_wireClean, ?statusTrue, reset_levelTrue, ?seqSound, reset_buffered.clean, reset_resSound,
    ?faultReported⟩
  case statusTrue => rfl
  case seqSound => exact ⟨.inl rfl, rfl⟩
  case faultReported => exact fun hhalted => nomatch hhalted

/-- Settles O53: each value is the one `State.reset` is defined with; the block is not busy, since SEQ is at rest. -/
theorem resetLeavesTheSpecsValues : Obligations.ResetLeavesTheSpecsValues :=
  ⟨rfl, rfl, rfl, rfl, rfl, rfl⟩

end Sys2Proof.Machine
